-- ==== Sys2Proof/Word.lean ====
section
/-! DEFINITION. The word types of the engine (00_scope.md R8, R10). -/

namespace Sys2Proof

/-- `u8` (R10). -/
abbrev Byte := BitVec 8

/-- `u32` (R10): the engine's word and the host bus's datum. `+` on it is addition modulo 2^32 (R172). -/
abbrev Word := BitVec 32

end Sys2Proof
end

