-- ==== Sys2Proof/Config.lean ====
section
/-! DEFINITION. What a platform fixes (93_implementation_defined.md section 4). The parameters RESET_PROTOCOL and
HOST_DEVICE_ORDERING have no rule depending on them (R240, R73; log 16), so only the window's base stands here. -/

namespace Sys2Proof

/-- `MD5DE_BASE / 64`. OPEN (R61): the platform chooses it, so it has no body. -/
opaque Config.baseSlot : Nat

/-- `MD5DE_BASE`, with `MD5DE_BASE mod 64 = 0` (R61). -/
def Config.md5deBase : Nat := 64 * Config.baseSlot

end Sys2Proof
end

