-- ==== Sys2Proof/Machine/Tables.lean ====
section
/-! DEFINITION. The four constant tables wired into the engine (10_state.md R38), the codes of USTATE and RET
(R27, R29), and the quad of accumulators. -/

namespace Sys2Proof.Machine

/-- Four 32-bit words under the names of the accumulators (R20). -/
structure Quad where
  a : Word
  b : Word
  c : Word
  d : Word
deriving DecidableEq, Repr

/-! ### USTATE (R27) -/

@[simp] abbrev UState.ready    : BitVec 4 := 0#4
@[simp] abbrev UState.absByte  : BitVec 4 := 1#4
@[simp] abbrev UState.cmpLoad  : BitVec 4 := 2#4
@[simp] abbrev UState.cmpStep  : BitVec 4 := 3#4
@[simp] abbrev UState.cmpAcc   : BitVec 4 := 4#4
@[simp] abbrev UState.pad80    : BitVec 4 := 5#4
@[simp] abbrev UState.padZero  : BitVec 4 := 6#4
@[simp] abbrev UState.padLen   : BitVec 4 := 7#4
@[simp] abbrev UState.done     : BitVec 4 := 8#4
@[simp] abbrev UState.error    : BitVec 4 := 9#4

/-- BUSY as a function of USTATE (R30). -/
def UState.isBusy (u : BitVec 4) : Bool :=
  [UState.absByte, UState.cmpLoad, UState.cmpStep, UState.cmpAcc, UState.pad80, UState.padZero,
    UState.padLen].elem u

/-- The micro-states in which the engine waits for the host and takes no micro-step (R27). -/
def UState.isIdle (u : BitVec 4) : Bool :=
  [UState.ready, UState.done, UState.error].elem u

/-- STATUS.PHASE (R27's last column). Values 10-15 of USTATE have none. -/
def UState.phase (u : BitVec 4) : Option (BitVec 3) :=
  if u = UState.ready then some 0#3
  else if u = UState.absByte then some 1#3
  else if u = UState.cmpLoad ∨ u = UState.cmpStep ∨ u = UState.cmpAcc then some 2#3
  else if u = UState.pad80 ∨ u = UState.padZero ∨ u = UState.padLen then some 3#3
  else if u = UState.done then some 4#3
  else if u = UState.error then some 5#3
  else none

/-! ### RET (R29) -/

@[simp] abbrev Ret.abs  : BitVec 2 := 0#2
@[simp] abbrev Ret.pad  : BitVec 2 := 1#2
@[simp] abbrev Ret.done : BitVec 2 := 2#2

/-! ### Constant tables -/

/-- The initial state IV (R100). -/
def iv : Quad := ⟨0x67452301#32, 0xEFCDAB89#32, 0x98BADCFE#32, 0x10325476#32⟩

/-- Rotation amounts `S[r][p]`, row r, column p (R97). -/
def rotTable : List (List Nat) :=
  [[7, 12, 17, 22], [5, 9, 14, 20], [4, 11, 16, 23], [6, 10, 15, 21]]

/-- The rotation of operation k: `S[k div 16][k mod 4]` (R97). -/
def rotAmount (k : BitVec 6) : Nat :=
  (rotTable.getD (k.toNat / 16) []).getD (k.toNat % 4) 0

/-- The message-word index `g(k)`, with j = k mod 16 (R98). -/
def wordIndex (k : BitVec 6) : BitVec 4 :=
  let j := k.toNat % 16
  match k.toNat / 16 with
  | 0 => BitVec.ofNat 4 j
  | 1 => BitVec.ofNat 4 (1 + 5 * j)
  | 2 => BitVec.ofNat 4 (5 + 3 * j)
  | _ => BitVec.ofNat 4 (7 * j)

/-- Round constants T[0] to T[15] (R99). -/
def roundConst0 : List Word :=
  [0xD76AA478#32, 0xE8C7B756#32, 0x242070DB#32, 0xC1BDCEEE#32,
   0xF57C0FAF#32, 0x4787C62A#32, 0xA8304613#32, 0xFD469501#32,
   0x698098D8#32, 0x8B44F7AF#32, 0xFFFF5BB1#32, 0x895CD7BE#32,
   0x6B901122#32, 0xFD987193#32, 0xA679438E#32, 0x49B40821#32]

/-- Round constants T[16] to T[31] (R99). -/
def roundConst1 : List Word :=
  [0xF61E2562#32, 0xC040B340#32, 0x265E5A51#32, 0xE9B6C7AA#32,
   0xD62F105D#32, 0x02441453#32, 0xD8A1E681#32, 0xE7D3FBC8#32,
   0x21E1CDE6#32, 0xC33707D6#32, 0xF4D50D87#32, 0x455A14ED#32,
   0xA9E3E905#32, 0xFCEFA3F8#32, 0x676F02D9#32, 0x8D2A4C8A#32]

/-- Round constants T[32] to T[47] (R99). -/
def roundConst2 : List Word :=
  [0xFFFA3942#32, 0x8771F681#32, 0x6D9D6122#32, 0xFDE5380C#32,
   0xA4BEEA44#32, 0x4BDECFA9#32, 0xF6BB4B60#32, 0xBEBFBC70#32,
   0x289B7EC6#32, 0xEAA127FA#32, 0xD4EF3085#32, 0x04881D05#32,
   0xD9D4D039#32, 0xE6DB99E5#32, 0x1FA27CF8#32, 0xC4AC5665#32]

/-- Round constants T[48] to T[63] (R99). -/
def roundConst3 : List Word :=
  [0xF4292244#32, 0x432AFF97#32, 0xAB9423A7#32, 0xFC93A039#32,
   0x655B59C3#32, 0x8F0CCC92#32, 0xFFEFF47D#32, 0x85845DD1#32,
   0x6FA87E4F#32, 0xFE2CE6E0#32, 0xA3014314#32, 0x4E0811A1#32,
   0xF7537E82#32, 0xBD3AF235#32, 0x2AD7D2BB#32, 0xEB86D391#32]

/-- The table T (R99). -/
def roundConstTable : List Word := roundConst0 ++ roundConst1 ++ roundConst2 ++ roundConst3

/-- `T[k]` (R99). -/
def roundConst (k : BitVec 6) : Word := roundConstTable.getD k.toNat 0#32

/-- 2^61 - 1, the largest number of message bytes (R8, R25). -/
def maxMessageBytes : Nat := 2 ^ 61 - 1

end Sys2Proof.Machine
end

