-- ==== Sys2Proof/Syntax.lean ====
section
/-! DEFINITION. The instructions: one constructor per row of spec/opcode_table.json (30_encoding.md R92, R94, R95). -/

namespace Sys2Proof

inductive Instr
  -- CMD words (R92)
  /-- NOP, R123 -/
  | nop
  /-- INIT, R124 -/
  | init
  /-- ABSORB nb, R127: nb = NBM1 + 1 message bytes -/
  | absorb (nb : Nat)
  /-- FINAL, R128 -/
  | final
  /-- CLRERR, R125 -/
  | clrerr
  -- bus accesses (R94)
  /-- write of CMD with the command word, R121 -/
  | wrCmd (w : Word)
  /-- read of STATUS, R129 -/
  | rdStatus
  /-- write of DIN, R130 -/
  | wrDin (data : Word)
  /-- read of DIN, R131 -/
  | rdDin
  /-- read of LEN_LO, R132 -/
  | rdLenLo
  /-- read of LEN_HI, R133 -/
  | rdLenHi
  /-- read of DIGEST0, R201 -/
  | rdDigest0
  /-- read of DIGEST1, R201 -/
  | rdDigest1
  /-- read of DIGEST2, R201 -/
  | rdDigest2
  /-- read of DIGEST3, R201 -/
  | rdDigest3
  -- micro-operations (R95)
  /-- ABS_BYTE, R151 -/
  | absByte
  /-- CMP_LOAD, R176 -/
  | cmpLoad
  /-- STEP_F, R178: j = STEP[3:0] is the position in round 0 -/
  | stepF (j : BitVec 4)
  /-- STEP_G, R179: position j in round 1 -/
  | stepG (j : BitVec 4)
  /-- STEP_H, R180: position j in round 2 -/
  | stepH (j : BitVec 4)
  /-- STEP_I, R181: position j in round 3 -/
  | stepI (j : BitVec 4)
  /-- CMP_ACC, R183 -/
  | cmpAcc
  /-- PAD_80, R155 -/
  | pad80
  /-- PAD_ZERO, R157 -/
  | padZero
  /-- PAD_LEN, R158 -/
  | padLen
deriving DecidableEq, Repr

end Sys2Proof
end

