-- ==== Sys2Proof/WellFormed.lean ====
section
/-! DEFINITION. Which terms of `Instr` are instructions. The bit-vector operands have exactly their field's width, so
the one check is the byte count of ABSORB (R91, R96: NB is 1, 2, 3 or 4). -/

namespace Sys2Proof

def Instr.wellFormed : Instr → Bool
  | .absorb nb => decide (1 ≤ nb) && decide (nb ≤ 4)
  | .nop | .init | .final | .clrerr => true
  | .wrCmd _ | .rdStatus | .wrDin _ | .rdDin | .rdLenLo | .rdLenHi => true
  | .rdDigest0 | .rdDigest1 | .rdDigest2 | .rdDigest3 => true
  | .absByte | .cmpLoad | .cmpAcc | .pad80 | .padZero | .padLen => true
  | .stepF _ | .stepG _ | .stepH _ | .stepI _ => true

/-- The instruction is well-formed. -/
abbrev WellFormed (i : Instr) : Prop := i.wellFormed = true

end Sys2Proof
end

