-- ==== Sys2Proof/Decode.lean ====
section
/-! DEFINITION. The three decoders (30_encoding.md R90-R95), each total on every word of its format and rejecting by
name, and the encoder. The format is fixed by where an encoding appears: the data of a CMD write, a bus access, or the
sequencer state (R90). -/

namespace Sys2Proof

open Sys2Proof.Machine

/-- Why a word is no instruction. -/
inductive DecodeError
  /-- A CMD word outside the eight legal ones (R93). -/
  | illegalCommand (w : Word)
  /-- A `{W, OFF}` pattern outside the ten legal ones (R94). -/
  | illegalAccess (pattern : BitVec 7)
  /-- U_READY, U_DONE, U_ERROR select no micro-operation (R95). -/
  | noMicroOp (ustate : BitVec 4)
  /-- USTATE 10-15 (R29, R95). -/
  | unreachableUState (ustate : BitVec 4)
deriving DecidableEq, Repr

/-- An encoding together with the place where it appears, which fixes its format (R90). A bus access has its 32-bit
datum beside the pattern; a read's datum is ignored. -/
inductive Encoded
  | cmd (w : Word)
  | bus (pattern : BitVec 7) (data : Word)
  | uop (u : BitVec 10)
deriving DecidableEq, Repr

/-- A decoder's answer. -/
abbrev Decoded := Except DecodeError Instr

/-- The command decoder (R122, fields of R91). -/
def decodeCmd (w : Word) : Decoded :=
  let op := w.extractLsb' 0 4
  let nbm1 := w.extractLsb' 4 2
  let rsvd := w.extractLsb' 6 26
  if rsvd ≠ 0#26 ∨ 5 ≤ op.toNat ∨ (op ≠ 2#4 ∧ nbm1 ≠ 0#2) then .error (.illegalCommand w)
  else if op = 0#4 then .ok .nop
  else if op = 1#4 then .ok .init
  else if op = 2#4 then .ok (.absorb (nbm1.toNat + 1))
  else if op = 3#4 then .ok .final
  else .ok .clrerr

/-- The register-window decoder on `{W, OFF[5:0]}` (R94). -/
def decodeBus (pattern : BitVec 7) (data : Word) : Decoded :=
  if pattern = 0b1000000#7 then .ok (.wrCmd data)
  else if pattern = 0b0000100#7 then .ok .rdStatus
  else if pattern = 0b1001000#7 then .ok (.wrDin data)
  else if pattern = 0b0001000#7 then .ok .rdDin
  else if pattern = 0b0010000#7 then .ok .rdLenLo
  else if pattern = 0b0010100#7 then .ok .rdLenHi
  else if pattern = 0b0100000#7 then .ok .rdDigest0
  else if pattern = 0b0100100#7 then .ok .rdDigest1
  else if pattern = 0b0101000#7 then .ok .rdDigest2
  else if pattern = 0b0101100#7 then .ok .rdDigest3
  else .error (.illegalAccess pattern)

/-- The step micro-operation of round r at position j (R95). -/
def stepInstr (r : BitVec 2) (j : BitVec 4) : Instr :=
  if r = 0#2 then .stepF j else if r = 1#2 then .stepG j else if r = 2#2 then .stepH j else .stepI j

/-- The sequencer's decoder on `{USTATE[3:0], STEP[5:0]}` (R95). -/
def decodeUop (u : BitVec 10) : Decoded :=
  let us := u.extractLsb' 6 4
  if us = UState.absByte then .ok .absByte
  else if us = UState.cmpLoad then .ok .cmpLoad
  else if us = UState.cmpStep then .ok (stepInstr (u.extractLsb' 4 2) (u.extractLsb' 0 4))
  else if us = UState.cmpAcc then .ok .cmpAcc
  else if us = UState.pad80 then .ok .pad80
  else if us = UState.padZero then .ok .padZero
  else if us = UState.padLen then .ok .padLen
  else if UState.isIdle us then .error (.noMicroOp us)
  else .error (.unreachableUState us)

/-- Decoding, by format. -/
def decode : Encoded → Decoded
  | .cmd w => decodeCmd w
  | .bus p d => decodeBus p d
  | .uop u => decodeUop u

/-! ### Encoder -/

/-- A CMD word from its fields (R91): RSVD = 0, NBM1, OP. -/
def cmdWord (op : BitVec 4) (nbm1 : BitVec 2) : Word := 0#26 ++ nbm1 ++ op

/-- A UOP word from its fields (R90). -/
def uopWord (us : BitVec 4) (st : BitVec 6) : BitVec 10 := us ++ st

/-- The encoding of an instruction. Don't-care STEP bits are written 0, and a read's datum is 0 (log 11). -/
def encode : Instr → Encoded
  | .nop => .cmd (cmdWord 0x0#4 0#2)
  | .init => .cmd (cmdWord 0x1#4 0#2)
  | .absorb nb => .cmd (cmdWord 0x2#4 (BitVec.ofNat 2 (nb - 1)))
  | .final => .cmd (cmdWord 0x3#4 0#2)
  | .clrerr => .cmd (cmdWord 0x4#4 0#2)
  | .wrCmd w => .bus (1#1 ++ 0x00#6) w
  | .rdStatus => .bus (0#1 ++ 0x04#6) 0#32
  | .wrDin d => .bus (1#1 ++ 0x08#6) d
  | .rdDin => .bus (0#1 ++ 0x08#6) 0#32
  | .rdLenLo => .bus (0#1 ++ 0x10#6) 0#32
  | .rdLenHi => .bus (0#1 ++ 0x14#6) 0#32
  | .rdDigest0 => .bus (0#1 ++ 0x20#6) 0#32
  | .rdDigest1 => .bus (0#1 ++ 0x24#6) 0#32
  | .rdDigest2 => .bus (0#1 ++ 0x28#6) 0#32
  | .rdDigest3 => .bus (0#1 ++ 0x2C#6) 0#32
  | .absByte => .uop (uopWord 1#4 0#6)
  | .cmpLoad => .uop (uopWord 2#4 0#6)
  | .stepF j => .uop (uopWord 3#4 (0b00#2 ++ j))
  | .stepG j => .uop (uopWord 3#4 (0b01#2 ++ j))
  | .stepH j => .uop (uopWord 3#4 (0b10#2 ++ j))
  | .stepI j => .uop (uopWord 3#4 (0b11#2 ++ j))
  | .cmpAcc => .uop (uopWord 4#4 0#6)
  | .pad80 => .uop (uopWord 5#4 0#6)
  | .padZero => .uop (uopWord 6#4 0#6)
  | .padLen => .uop (uopWord 7#4 0#6)

/-- An encoding with the bits that its row does not fix and that carry no operand cleared: a read's datum (R94), and
STEP where USTATE is not U_CMP_STEP (R95). -/
def Encoded.cared : Encoded → Encoded
  | .cmd w => .cmd w
  | .bus p d => .bus p (if p.extractLsb' 6 1 = 1#1 then d else 0#32)
  | .uop u => .uop (if u.extractLsb' 6 4 = UState.cmpStep then u else uopWord (u.extractLsb' 6 4) 0#6)

/-! ### The opcode table's rows -/

/-- One row of spec/opcode_table.json: its width in bits, match and mask. -/
structure TableRow where
  width : Nat
  matchBits : Nat
  maskBits : Nat
deriving DecidableEq, Repr

/-- Each instruction's row of the opcode table. -/
def tableRow : Instr → TableRow
  | .nop => ⟨32, 0x00000000, 0xFFFFFFFF⟩
  | .init => ⟨32, 0x00000001, 0xFFFFFFFF⟩
  | .absorb _ => ⟨32, 0x00000002, 0xFFFFFFCF⟩
  | .final => ⟨32, 0x00000003, 0xFFFFFFFF⟩
  | .clrerr => ⟨32, 0x00000004, 0xFFFFFFFF⟩
  | .wrCmd _ => ⟨7, 0x40, 0x7F⟩
  | .rdStatus => ⟨7, 0x04, 0x7F⟩
  | .wrDin _ => ⟨7, 0x48, 0x7F⟩
  | .rdDin => ⟨7, 0x08, 0x7F⟩
  | .rdLenLo => ⟨7, 0x10, 0x7F⟩
  | .rdLenHi => ⟨7, 0x14, 0x7F⟩
  | .rdDigest0 => ⟨7, 0x20, 0x7F⟩
  | .rdDigest1 => ⟨7, 0x24, 0x7F⟩
  | .rdDigest2 => ⟨7, 0x28, 0x7F⟩
  | .rdDigest3 => ⟨7, 0x2C, 0x7F⟩
  | .absByte => ⟨10, 0x040, 0x3C0⟩
  | .cmpLoad => ⟨10, 0x080, 0x3C0⟩
  | .stepF _ => ⟨10, 0x0C0, 0x3F0⟩
  | .stepG _ => ⟨10, 0x0D0, 0x3F0⟩
  | .stepH _ => ⟨10, 0x0E0, 0x3F0⟩
  | .stepI _ => ⟨10, 0x0F0, 0x3F0⟩
  | .cmpAcc => ⟨10, 0x100, 0x3C0⟩
  | .pad80 => ⟨10, 0x140, 0x3C0⟩
  | .padZero => ⟨10, 0x180, 0x3C0⟩
  | .padLen => ⟨10, 0x1C0, 0x3C0⟩

/-- The width and the bits of an encoding as the opcode table numbers them. -/
def Encoded.tableWord : Encoded → Nat × Nat
  | .cmd w => (32, w.toNat)
  | .bus p _ => (7, p.toNat)
  | .uop u => (10, u.toNat)

/-- The encoding that an instruction of `nbits` bits `w` stands for, numbered as the opcode table numbers them: 32 bits
are a CMD word, 8 (or the pattern's own 7) a bus pattern whose datum is 0, 40 a bus pattern with its datum in bits 39:8,
16 (or 10) a UOP word (log 13). -/
def encodedOfTable (nbits w : Nat) : Option Encoded :=
  if nbits = 32 then if w < 2 ^ 32 then some (.cmd (BitVec.ofNat 32 w)) else none
  else if nbits = 8 ∨ nbits = 7 then if w < 2 ^ 7 then some (.bus (BitVec.ofNat 7 w) 0#32) else none
  else if nbits = 40 then
    if w < 2 ^ 40 ∧ w % 256 < 2 ^ 7 then some (.bus (BitVec.ofNat 7 w) (BitVec.ofNat 32 (w / 256))) else none
  else if nbits = 16 ∨ nbits = 10 then if w < 2 ^ 10 then some (.uop (BitVec.ofNat 10 w)) else none
  else none

/-- The instruction the decoder reads from an instruction whose bits are `w`. -/
def decodeTableWord (nbits w : Nat) : Option Instr :=
  match encodedOfTable nbits w with
  | none => none
  | some e =>
    match decode e with
    | .ok i => some i
    | .error _ => none

end Sys2Proof
end

