-- ==== Sys2Proof/Machine/State.lean ====
section
/-! DEFINITION. The engine's state (10_state.md R20-R41), the events that reach it, its faults and refusals, the state
after reset, and the plain field updates. -/

namespace Sys2Proof.Machine

/-- The block buffer's contents: (index, byte) pairs in canonical form (`Memory.wf` in Machine/Ops.lean). -/
abbrev Memory := List Host.Cell

/-- One host access as the platform routes it to the window (R120): direction, the offset bits the engine decodes
(R61), the size in bytes, and the datum of a write. -/
structure Access where
  write : Bool
  off : BitVec 6
  size : Nat
  data : Word
deriving DecidableEq, Repr

/-- What can happen next (R9, R71, R240). -/
inductive Event
  /-- A host access takes effect. -/
  | access (a : Access)
  /-- The engine's turn: one micro-step if it is busy. -/
  | micro
  /-- The reset input is asserted. -/
  | reset
deriving DecidableEq, Repr

/-- The engine's own errors that set a sticky flag (R211). -/
inductive ErrorKind
  /-- ERR_OVF, LengthOverflow -/
  | ovf
  /-- ERR_CMD -/
  | cmd
  /-- ERR_BUSY -/
  | busy
deriving DecidableEq, Repr

/-- Why a step stops. -/
inductive Fault
  /-- A host access outside the ten legal ones, raised by the window's dispatch (R62, R120, R212). Safe: the engine is
  unchanged, and the model stops where the host would go on (log 8). -/
  | busError (off : BitVec 6)
  /-- USTATE 10-15 where a command, a STATUS or DIGEST read or an engine turn reads it (R29, E5, E6). Safe: no rule
  produces it (log 9). -/
  | unreachableUState (u : BitVec 4)
  /-- RET = 3 at CMP_ACC (R29, E7). Safe: no rule produces it (log 9). -/
  | unreachableRet (r : BitVec 2)
  /-- FILL above 64 at a STATUS read (R24, E8), or a padder byte with FILL above 63, where BUF[FILL] does not exist
  (R160 item 4). Safe: no rule produces it (log 9). -/
  | unreachableFill (f : BitVec 7)
  /-- PCNT outside 1..4 at ABS_BYTE, or above 4 at CMP_ACC (R26, R151, E8). Safe: no rule produces it (log 9). -/
  | unreachablePcnt (c : BitVec 3)
deriving DecidableEq, Repr

/-- Why the model gives a step no meaning. -/
inductive Refusal
  /-- The instruction of that mnemonic has no meaning in the model; raised by exec's arm. Safe. -/
  | notModelled (mnemonic : String)
deriving DecidableEq, Repr


/-- The engine's state. Every field but the last two is named by the rule beside it. -/
structure State where
  /-- A, B, C, D (R20) -/
  reg : Quad
  /-- AA, BB, CC, DD (R21) -/
  saved : Quad
  /-- BUF[0..63] (R22) -/
  buf : Memory
  /-- FILL (R24) -/
  fill : BitVec 7
  /-- MCNT (R25) -/
  mcnt : BitVec 61
  /-- PEND (R26) -/
  pend : Word
  /-- PCNT (R26) -/
  pcnt : BitVec 3
  /-- STEP (R28) -/
  stepCtr : BitVec 6
  /-- USTATE (R27) -/
  ustate : BitVec 4
  /-- RET (R29) -/
  ret : BitVec 2
  /-- ERR_OVF (R34) -/
  errOvf : Bool
  /-- ERR_CMD (R34) -/
  errCmd : Bool
  /-- ERR_BUSY (R34) -/
  errBusy : Bool
  /-- DIN (R33) -/
  din : Word
  /-- DESIGN CHOICE (log 2): what the last host read returned (the "return" of R120). -/
  rdata : Word
  /-- DESIGN CHOICE (log 1): what happens next, in order (R9, R71). -/
  agenda : List Event
deriving DecidableEq, Repr

/-- The state after reset (R41, R240). AA..DD, BUF, PEND, STEP and RET are unspecified there: DESIGN CHOICE zero
(logs 3-7), as are `rdata` and `agenda` (logs 1, 2). -/
def State.reset : State where
  reg := iv
  saved := ⟨0#32, 0#32, 0#32, 0#32⟩
  buf := []
  fill := 0#7
  mcnt := 0#61
  pend := 0#32
  pcnt := 0#3
  stepCtr := 0#6
  ustate := UState.ready
  ret := Ret.abs
  errOvf := false
  errCmd := false
  errBusy := false
  din := 0#32
  rdata := 0#32
  agenda := []

/-! ### Field updates -/

def State.withReg (s : State) (q : Quad) : State := { s with reg := q }
def State.withSaved (s : State) (q : Quad) : State := { s with saved := q }
def State.withBuf (s : State) (m : Memory) : State := { s with buf := m }
def State.withFill (s : State) (f : BitVec 7) : State := { s with fill := f }
def State.withMcnt (s : State) (n : BitVec 61) : State := { s with mcnt := n }
/-- PEND and PCNT are one pair: the beat not yet in BUF (R26). -/
def State.withBeat (s : State) (p : Word) (c : BitVec 3) : State := { s with pend := p, pcnt := c }
def State.withStepCtr (s : State) (k : BitVec 6) : State := { s with stepCtr := k }
def State.withUstate (s : State) (u : BitVec 4) : State := { s with ustate := u }
def State.withRet (s : State) (r : BitVec 2) : State := { s with ret := r }
def State.withErrOvf (s : State) (b : Bool) : State := { s with errOvf := b }
def State.withErrCmd (s : State) (b : Bool) : State := { s with errCmd := b }
def State.withErrBusy (s : State) (b : Bool) : State := { s with errBusy := b }
def State.withDin (s : State) (w : Word) : State := { s with din := w }
def State.withRdata (s : State) (w : Word) : State := { s with rdata := w }
def State.withAgenda (s : State) (l : List Event) : State := { s with agenda := l }

end Sys2Proof.Machine
end

