-- ==== Sys2Proof/Machine/Flags.lean ====
section
/-! DEFINITION. The status flags (10_state.md R30, R31, R34): BUSY and DONE as functions of USTATE, and STATUS. The
engine's arithmetic sets no flag (R34, R172). -/

namespace Sys2Proof.Machine

/-- BUSY (R30). -/
def State.busy (s : State) : Bool := UState.isBusy s.ustate

/-- The engine waits for the host (R27): BUSY = 0 in one of the ten micro-states. -/
def State.idle (s : State) : Bool := UState.isIdle s.ustate

/-- DONE (R30). -/
def State.done (s : State) : Bool := decide (s.ustate = UState.done)

/-- STATUS, field by field from bit 31 down (R31, R129); `phase` is USTATE's STATUS.PHASE. -/
def statusWord (phase : BitVec 3) (s : State) : Word :=
  0#13 ++ phase ++ 0#1 ++ s.fill ++ 0#3 ++ BitVec.ofBool s.errBusy ++ BitVec.ofBool s.errCmd ++
    BitVec.ofBool s.errOvf ++ BitVec.ofBool s.done ++ BitVec.ofBool s.busy

end Sys2Proof.Machine
end

