-- ==== Sys2Proof/Machine/Ops.lean ====
section
/-! DEFINITION. The shared operations: the block buffer, entering an error and the ways out of it, presenting a command,
and a host read. -/

namespace Sys2Proof.Machine

/-! ### Block buffer (10_state.md R22, 20_memory.md R60) -/

/-- BUF has the indices 0..63 (R22). -/
def bufBytes : Nat := 64

/-- What an index that is not listed reads as. DESIGN CHOICE 0x00 (log 4): BUF is unspecified after reset (R41). -/
def unlistedByte : Byte := 0x00#8

/-- `BUF[i]`. -/
def Memory.read (m : Memory) (i : Nat) : Byte := (m.lookup i).getD unlistedByte

/-- `BUF[i] <- b`, keeping the canonical form. -/
def Memory.write : Memory → Nat → Byte → Memory
  | [], i, b => if b = unlistedByte then [] else [(i, b)]
  | (j, c) :: m, i, b =>
    if i < j then if b = unlistedByte then (j, c) :: m else (i, b) :: (j, c) :: m
    else if i = j then if b = unlistedByte then m else (i, b) :: m
    else (j, c) :: Memory.write m i b

/-- `BUF[i] <- b0, BUF[i+1] <- b1, …`. -/
def Memory.writeBytes : Memory → Nat → List Byte → Memory
  | m, _, [] => m
  | m, i, b :: bs => Memory.writeBytes (Memory.write m i b) (i + 1) bs

/-- The canonical form: indices strictly rising, inside BUF, and no entry equal to what an unlisted index reads as. -/
abbrev Memory.wf (m : Memory) : Prop :=
  List.Pairwise (fun x y : Host.Cell => x.1 < y.1) m ∧ ∀ c ∈ m, c.2 ≠ unlistedByte ∧ c.1 < bufBytes

/-! ### Errors (60_exceptions.md R217, R218) -/

/-- Entering an error (R217): ERR_BUSY and ERR_CMD set only their flag, ERR_OVF sets its flag and U_ERROR. Nothing is
saved, masked or vectored. -/
def enterError (e : ErrorKind) (s : State) : State :=
  match e with
  | .busy => s.withErrBusy true
  | .cmd => s.withErrCmd true
  | .ovf => (s.withErrOvf true).withUstate UState.error

/-- What CLRERR clears (R125, R218). -/
def clearCommandErrors (s : State) : State := (s.withErrCmd false).withErrBusy false

/-- What INIT does (R124): a new message, all flags cleared, and the way out of U_ERROR (R218). -/
def startMessage (s : State) : State :=
  (clearCommandErrors s |>.withErrOvf false |>.withReg iv |>.withFill 0#7 |>.withMcnt 0#61 |>.withBeat s.pend 0#3
    |>.withUstate UState.ready)

/-- What reset does (R240): every piece of the engine's state to `State.reset`'s value. What the host has read, and what
is still to come, are the world's and stay (logs 2, 15). -/
def resetEngine (s : State) : State := (State.reset.withRdata s.rdata).withAgenda s.agenda

/-! ### Commands and reads -/

/-- A command word presented by a write of CMD (R121): dropped with ERR_BUSY while BUSY = 1, else it takes its effect.
BUSY = 0 means U_READY, U_DONE or U_ERROR (R126); USTATE 10-15 faults (R29, log 9). -/
def presentCommand (effect : State → Host.Outcome State Fault Refusal) (s : State) : Host.Outcome State Fault Refusal :=
  if s.busy then .next (enterError .busy s)
  else if s.idle then effect s
  else .fault (.unreachableUState s.ustate)

/-- A host read returns a word and has no side effect (R68). -/
def hostRead (w : Word) (s : State) : Host.Outcome State Fault Refusal := .next (s.withRdata w)

/-! ### Padder and sequencer -/

/-- `BUF[FILL] <- b; FILL <- FILL + 1` (R151, R155, R157). -/
def putByte (b : Byte) (s : State) : State :=
  (s.withBuf (s.buf.write s.fill.toNat b)).withFill (s.fill + 1#7)

/-- Handing the full buffer to the compressor; `r` says where CMP_ACC goes next (R29). -/
def startCompression (r : BitVec 2) (s : State) : State := (s.withRet r).withUstate UState.cmpLoad

/-- `step_advance()` of operation k (R182). -/
def stepAdvance (k : BitVec 6) (s : State) : State :=
  if k = 63#6 then (s.withStepCtr 0#6).withUstate UState.cmpAcc else s.withStepCtr (k + 1#6)

end Sys2Proof.Machine
end

