-- ==== Sys2Proof/Machine/Operands.lean ====
section
/-! DEFINITION. Operand forms: byte order (20_memory.md R64-R67), the mixing functions and the rotator (42_compression.md
R170-R173), and the role mux (R174). -/

namespace Sys2Proof.Machine

/-! ### Bytes and words (00_scope.md R10) -/

/-- `le32(b0, b1, b2, b3)` (R10). -/
def le32 (b0 b1 b2 b3 : Byte) : Word :=
  b0.setWidth 32 ||| b1.setWidth 32 <<< 8 ||| b2.setWidth 32 <<< 16 ||| b3.setWidth 32 <<< 24

/-- `byte_i(w)` of a word of any width (R10, R150). -/
def byteOf {n : Nat} (i : Nat) (w : BitVec n) : Byte := w.extractLsb' (8 * i) 8

/-- The word view `X[j]` of BUF (R23). -/
def wordView (m : Memory) (j : BitVec 4) : Word :=
  le32 (m.read (4 * j.toNat)) (m.read (4 * j.toNat + 1)) (m.read (4 * j.toNat + 2)) (m.read (4 * j.toNat + 3))

/-- The length field `L = zext_64(MCNT) << 3` as 8 bytes, least significant first (R158). -/
def lengthField (n : BitVec 61) : List Byte :=
  (List.range 8).map (fun i => byteOf i (n.setWidth 64 <<< 3))

/-! ### Mixing functions (R170) and rotator (R173) -/

def mixF (x y z : Word) : Word := (x &&& y) ||| (~~~x &&& z)
def mixG (x y z : Word) : Word := (x &&& z) ||| (y &&& ~~~z)
def mixH (x y z : Word) : Word := x ^^^ y ^^^ z
def mixI (x y z : Word) : Word := y ^^^ (x ||| ~~~z)

/-- `rotl32(v, s)` (R173), for the amounts of table S. -/
def rotl32 (v : Word) (s : Nat) : Word := (v <<< s) ||| (v >>> (32 - s))

/-! ### Role mux (R174) -/

/-- The accumulators' names. -/
inductive RegName
  | A
  | B
  | C
  | D
deriving DecidableEq, Repr

def Quad.get (q : Quad) : RegName → Word
  | .A => q.a
  | .B => q.b
  | .C => q.c
  | .D => q.d

def Quad.set (q : Quad) (n : RegName) (w : Word) : Quad :=
  match n with
  | .A => { q with a := w }
  | .B => { q with b := w }
  | .C => { q with c := w }
  | .D => { q with d := w }

/-- Addition modulo 2^32, word by word: no carry between words (R183). -/
def Quad.add (q r : Quad) : Quad := ⟨q.a + r.a, q.b + r.b, q.c + r.c, q.d + r.d⟩

/-- A row of R174's table: the target t and the operands x, y, z. -/
structure Roles where
  t : RegName
  x : RegName
  y : RegName
  z : RegName
deriving DecidableEq, Repr

/-- R174's table by group position p. -/
def roles (p : BitVec 2) : Roles :=
  if p = 0#2 then ⟨.A, .B, .C, .D⟩
  else if p = 1#2 then ⟨.D, .A, .B, .C⟩
  else if p = 2#2 then ⟨.C, .D, .A, .B⟩
  else ⟨.B, .C, .D, .A⟩

/-- `reg[t] + f(reg[x], reg[y], reg[z]) + X[g(k)] + T[k]` (R178). -/
def roundSum (f : Word → Word → Word → Word) (k : BitVec 6) (m : Memory) (q : Quad) : Word :=
  let r := roles (k.extractLsb' 0 2)
  q.get r.t + f (q.get r.x) (q.get r.y) (q.get r.z) + wordView m (wordIndex k) + roundConst k

/-- Operation k's pass through the datapath (R178-R181): only `reg[t]` is written. -/
def roundQuad (f : Word → Word → Word → Word) (k : BitVec 6) (m : Memory) (q : Quad) : Quad :=
  let r := roles (k.extractLsb' 0 2)
  q.set r.t (q.get r.x + rotl32 (roundSum f k m q) (rotAmount k))

end Sys2Proof.Machine
end

