-- ==== Sys2Proof/Machine/Commands.lean ====
section
/-! DEFINITION. The commands (40_host_commands.md R121-R128): what each does once accepted, and, as an instruction, when
its word is presented by a write of CMD. -/

namespace Sys2Proof.Machine

/-! ### Accepted commands -/

/-- NOP: no effect (R123). -/
def acceptNop (s : State) : Host.Outcome State Fault Refusal := .next s

/-- INIT (R124). -/
def acceptInit (s : State) : Host.Outcome State Fault Refusal := .next (startMessage s)

/-- CLRERR (R125). -/
def acceptClrerr (s : State) : Host.Outcome State Fault Refusal := .next (clearCommandErrors s)

/-- ABSORB nb (R127), after the phase check (R126). Decoding gives nb in 1..4 (log 18). -/
def acceptAbsorb (nb : Nat) (s : State) : Host.Outcome State Fault Refusal :=
  if s.ustate ≠ UState.ready then .next (enterError .cmd s)
  else if maxMessageBytes < s.mcnt.toNat + nb then .next (enterError .ovf s)
  else .next (((s.withMcnt (s.mcnt + BitVec.ofNat 61 nb)).withBeat s.din (BitVec.ofNat 3 nb)).withUstate
    UState.absByte)

/-- FINAL (R128), after the phase check (R126). -/
def acceptFinal (s : State) : Host.Outcome State Fault Refusal :=
  if s.ustate ≠ UState.ready then .next (enterError .cmd s) else .next (s.withUstate UState.pad80)

/-! ### The command instructions (log 12, DEDUCED: presented by a write of CMD) -/

/-- NOP (R123). -/
def execNop (s : State) : Host.Outcome State Fault Refusal := presentCommand acceptNop s

/-- INIT (R124). -/
def execInit (s : State) : Host.Outcome State Fault Refusal := presentCommand acceptInit s

/-- ABSORB nb (R127). -/
def execAbsorb (nb : Nat) (s : State) : Host.Outcome State Fault Refusal := presentCommand (acceptAbsorb nb) s

/-- FINAL (R128). -/
def execFinal (s : State) : Host.Outcome State Fault Refusal := presentCommand acceptFinal s

/-- CLRERR (R125). -/
def execClrerr (s : State) : Host.Outcome State Fault Refusal := presentCommand acceptClrerr s

/-- `decode_and_execute(w)` (R122): an illegal word sets ERR_CMD and nothing else. -/
def decodeAndExecute (w : Word) (s : State) : Host.Outcome State Fault Refusal :=
  match decodeCmd w with
  | .ok .nop => acceptNop s
  | .ok .init => acceptInit s
  | .ok (.absorb nb) => acceptAbsorb nb s
  | .ok .final => acceptFinal s
  | .ok .clrerr => acceptClrerr s
  | _ => .next (enterError .cmd s)

/-- WR_CMD: `cmd_write(w)` (R121). -/
def execWrCmd (w : Word) (s : State) : Host.Outcome State Fault Refusal := presentCommand (decodeAndExecute w) s

end Sys2Proof.Machine
end

