-- ==== Sys2Proof/Machine/Compressor.lean ====
section
/-! DEFINITION. The compressor's micro-operations (42_compression.md R176-R183). -/

namespace Sys2Proof.Machine

/-- CMP_LOAD (R176). -/
def execCmpLoad (s : State) : Host.Outcome State Fault Refusal :=
  .next (((s.withSaved s.reg).withStepCtr 0#6).withUstate UState.cmpStep)

/-- One step operation with mixing function f at operation k (R178-R182). DEDUCED (log 10): k comes from the
micro-operation's word, which holds STEP. -/
def roundOp (f : Word → Word → Word → Word) (k : BitVec 6) (s : State) : State :=
  stepAdvance k (s.withReg (roundQuad f k s.buf s.reg))

/-- STEP_F (R178): k = j. -/
def execStepF (j : BitVec 4) (s : State) : Host.Outcome State Fault Refusal := .next (roundOp mixF (0#2 ++ j) s)

/-- STEP_G (R179): k = 16 + j. -/
def execStepG (j : BitVec 4) (s : State) : Host.Outcome State Fault Refusal := .next (roundOp mixG (1#2 ++ j) s)

/-- STEP_H (R180): k = 32 + j. -/
def execStepH (j : BitVec 4) (s : State) : Host.Outcome State Fault Refusal := .next (roundOp mixH (2#2 ++ j) s)

/-- STEP_I (R181): k = 48 + j. -/
def execStepI (j : BitVec 4) (s : State) : Host.Outcome State Fault Refusal := .next (roundOp mixI (3#2 ++ j) s)

/-- The feed-forward `A <- A + AA; …; FILL <- 0` (R183). -/
def feedForward (s : State) : State := (s.withReg (s.reg.add s.saved)).withFill 0#7

/-- CMP_ACC (R183). RET = 3 and, on the way back to absorbing, PCNT above 4 fault (E7, E8, log 9). -/
def execCmpAcc (s : State) : Host.Outcome State Fault Refusal :=
  if s.ret = Ret.done then .next ((feedForward s).withUstate UState.done)
  else if s.ret = Ret.pad then .next ((feedForward s).withUstate UState.padZero)
  else if s.ret = Ret.abs then
    if 4 < s.pcnt.toNat then .fault (.unreachablePcnt s.pcnt)
    else if 0 < s.pcnt.toNat then .next ((feedForward s).withUstate UState.absByte)
    else .next ((feedForward s).withUstate UState.ready)
  else .fault (.unreachableRet s.ret)

end Sys2Proof.Machine
end

