-- ==== Sys2Proof/Machine/Padder.lean ====
section
/-! DEFINITION. The message padder's micro-operations (41_padder_buffer.md R151-R158). -/

namespace Sys2Proof.Machine

/-- ABS_BYTE (R151). -/
def execAbsByte (s : State) : Host.Outcome State Fault Refusal :=
  if s.pcnt.toNat < 1 ∨ 4 < s.pcnt.toNat then .fault (.unreachablePcnt s.pcnt)
  else if 63 < s.fill.toNat then .fault (.unreachableFill s.fill)
  else
    let t := (putByte (byteOf 0 s.pend) s).withBeat (s.pend >>> 8) (s.pcnt - 1#3)
    if s.fill + 1#7 = 64#7 then .next (startCompression Ret.abs t)
    else if s.pcnt - 1#3 = 0#3 then .next (t.withUstate UState.ready)
    else .next (t.withUstate UState.absByte)

/-- The common transition of PAD_80 and PAD_ZERO, writing the byte b (R155, R157). -/
def padByte (b : Byte) (s : State) : Host.Outcome State Fault Refusal :=
  if 63 < s.fill.toNat then .fault (.unreachableFill s.fill)
  else if s.fill + 1#7 = 64#7 then .next (startCompression Ret.pad (putByte b s))
  else if s.fill + 1#7 = 56#7 then .next ((putByte b s).withUstate UState.padLen)
  else .next ((putByte b s).withUstate UState.padZero)

/-- PAD_80 (R155). -/
def execPad80 (s : State) : Host.Outcome State Fault Refusal := padByte 0x80#8 s

/-- PAD_ZERO (R157). -/
def execPadZero (s : State) : Host.Outcome State Fault Refusal := padByte 0x00#8 s

/-- PAD_LEN (R158). -/
def execPadLen (s : State) : Host.Outcome State Fault Refusal :=
  .next (startCompression Ret.done ((s.withBuf (s.buf.writeBytes 56 (lengthField s.mcnt))).withFill 64#7))

end Sys2Proof.Machine
end

