-- ==== Sys2Proof/Machine/Registers.lean ====
section
/-! DEFINITION. The other register accesses (40_host_commands.md R129-R133, 43_serializer.md R201). -/

namespace Sys2Proof.Machine

/-- RD_STATUS (R129). USTATE 10-15 has no PHASE and FILL above 64 is no count: both fault (E5, E8, log 9). -/
def execRdStatus (s : State) : Host.Outcome State Fault Refusal :=
  match UState.phase s.ustate with
  | none => .fault (.unreachableUState s.ustate)
  | some phase =>
    if 64 < s.fill.toNat then .fault (.unreachableFill s.fill) else hostRead (statusWord phase s) s

/-- WR_DIN (R130): legal in every phase and while busy. -/
def execWrDin (data : Word) (s : State) : Host.Outcome State Fault Refusal := .next (s.withDin data)

/-- RD_DIN (R131). -/
def execRdDin (s : State) : Host.Outcome State Fault Refusal := hostRead s.din s

/-- RD_LEN_LO: `MCNT[31:0]` (R132). -/
def execRdLenLo (s : State) : Host.Outcome State Fault Refusal := hostRead (s.mcnt.extractLsb' 0 32) s

/-- RD_LEN_HI: `zext_32(MCNT[60:32])` (R133). -/
def execRdLenHi (s : State) : Host.Outcome State Fault Refusal := hostRead ((s.mcnt.extractLsb' 32 29).setWidth 32) s

/-- `digest_word` (R201): the accumulator in U_DONE, else 0. USTATE 10-15 faults (E6, log 9). -/
def readDigest (n : RegName) (s : State) : Host.Outcome State Fault Refusal :=
  if s.done then hostRead (s.reg.get n) s
  else if s.busy ∨ s.idle then hostRead 0#32 s
  else .fault (.unreachableUState s.ustate)

/-- RD_DIGEST0 (R201). -/
def execRdDigest0 (s : State) : Host.Outcome State Fault Refusal := readDigest .A s

/-- RD_DIGEST1 (R201). -/
def execRdDigest1 (s : State) : Host.Outcome State Fault Refusal := readDigest .B s

/-- RD_DIGEST2 (R201). -/
def execRdDigest2 (s : State) : Host.Outcome State Fault Refusal := readDigest .C s

/-- RD_DIGEST3 (R201). -/
def execRdDigest3 (s : State) : Host.Outcome State Fault Refusal := readDigest .D s

end Sys2Proof.Machine
end

