-- ==== Sys2Proof/Machine/Dispatch.lean ====
section
/-! DEFINITION. One arm per instruction. -/

namespace Sys2Proof.Machine

def exec (i : Instr) (s : State) : Host.Outcome State Fault Refusal :=
  match i with
  -- commands
  | .nop => Sys2Proof.Machine.execNop s
  | .init => Sys2Proof.Machine.execInit s
  | .absorb nb => Sys2Proof.Machine.execAbsorb nb s
  | .final => Sys2Proof.Machine.execFinal s
  | .clrerr => Sys2Proof.Machine.execClrerr s
  -- bus accesses
  | .wrCmd w => Sys2Proof.Machine.execWrCmd w s
  | .rdStatus => Sys2Proof.Machine.execRdStatus s
  | .wrDin data => Sys2Proof.Machine.execWrDin data s
  | .rdDin => Sys2Proof.Machine.execRdDin s
  | .rdLenLo => Sys2Proof.Machine.execRdLenLo s
  | .rdLenHi => Sys2Proof.Machine.execRdLenHi s
  | .rdDigest0 => Sys2Proof.Machine.execRdDigest0 s
  | .rdDigest1 => Sys2Proof.Machine.execRdDigest1 s
  | .rdDigest2 => Sys2Proof.Machine.execRdDigest2 s
  | .rdDigest3 => Sys2Proof.Machine.execRdDigest3 s
  -- micro-operations
  | .absByte => Sys2Proof.Machine.execAbsByte s
  | .cmpLoad => Sys2Proof.Machine.execCmpLoad s
  | .stepF j => Sys2Proof.Machine.execStepF j s
  | .stepG j => Sys2Proof.Machine.execStepG j s
  | .stepH j => Sys2Proof.Machine.execStepH j s
  | .stepI j => Sys2Proof.Machine.execStepI j s
  | .cmpAcc => Sys2Proof.Machine.execCmpAcc s
  | .pad80 => Sys2Proof.Machine.execPad80 s
  | .padZero => Sys2Proof.Machine.execPadZero s
  | .padLen => Sys2Proof.Machine.execPadLen s

end Sys2Proof.Machine
end

