-- ==== Sys2Proof/Machine/Agents.lean ====
section
/-! DEFINITION. The agents' turns (00_scope.md R9): a host access, an engine turn, reset; what comes next; and where an
instruction is placed so that it runs next. -/

namespace Sys2Proof.Machine

/-- The `{W, OFF[5:0]}` pattern of an access (R90). -/
def Access.pattern (a : Access) : BitVec 7 := BitVec.ofBool a.write ++ a.off

/-- The offset bits the engine decodes of an access to a platform address inside the window (R61, R96). -/
def windowOffset (addr : Nat) : BitVec 6 := BitVec.ofNat 6 (addr - Config.md5deBase)

/-- A host access (R120): a size other than 4, a misaligned offset, or a pair outside R94 is a BusError, which reaches no
register. -/
def runAccess (a : Access) (s : State) : Host.Outcome State Fault Refusal :=
  if a.size ≠ 4 ∨ a.off.toNat % 4 ≠ 0 then .fault (.busError a.off)
  else
    match decodeBus a.pattern a.data with
    | .ok i => exec i s
    | .error _ => .fault (.busError a.off)

/-- The current micro-operation's word (R90). -/
def State.uop (s : State) : BitVec 10 := uopWord s.ustate s.stepCtr

/-- The engine's turn (R9, R27): its micro-operation if one is selected; nothing in U_READY, U_DONE, U_ERROR (R225);
USTATE 10-15 faults (R29, E6). -/
def runMicro (s : State) : Host.Outcome State Fault Refusal :=
  match decodeUop s.uop with
  | .ok i => exec i s
  | .error (.unreachableUState u) => .fault (.unreachableUState u)
  | .error _ => .next s

/-- One event. -/
def runEvent (e : Event) (s : State) : Host.Outcome State Fault Refusal :=
  match e with
  | .access a => runAccess a s
  | .micro => runMicro s
  | .reset => .next (resetEngine s)

/-- What happens next, and the state with it taken off the agenda. With nothing to come from outside it is the engine's
turn (log 1). -/
def nextEvent (s : State) : Event × State :=
  match s.agenda with
  | [] => (.micro, s)
  | e :: rest => (e, s.withAgenda rest)

/-- A CMD word as the host presents it: a write of offset 0x00 (R32). -/
def commandAccess (w : Word) : Access := ⟨true, 0x00#6, 4, w⟩

/-- A bus pattern with its datum as a 4-byte access (R90). -/
def patternAccess (p : BitVec 7) (data : Word) : Access := ⟨p.getLsbD 6, p.extractLsb' 0 6, 4, data⟩

/-- Where an encoding is placed so that the next step runs it (log 13): a CMD word or a bus access at the head of the
agenda; a UOP word in USTATE and STEP, with the engine's turn at the head. ABS_BYTE is selected only with a pending byte
(R151), so placing it gives PCNT the value 1 where PCNT is outside 1..4. -/
def placeEncoded (e : Encoded) (s : State) : State :=
  match e with
  | .cmd w => s.withAgenda (.access (commandAccess w) :: s.agenda)
  | .bus p d => s.withAgenda (.access (patternAccess p d) :: s.agenda)
  | .uop u =>
    let us := u.extractLsb' 6 4
    let t := ((s.withAgenda (.micro :: s.agenda)).withUstate us).withStepCtr (u.extractLsb' 0 6)
    if us = UState.absByte ∧ (s.pcnt.toNat < 1 ∨ 4 < s.pcnt.toNat) then t.withBeat s.pend 1#3 else t

/-- The body of `State.withFetchWord`: a word of no format's width or range changes nothing. -/
def placeTableWord (s : State) (nbits w : Nat) : State :=
  match encodedOfTable nbits w with
  | none => s
  | some e => placeEncoded e s

end Sys2Proof.Machine
end

