-- ==== Sys2Proof/Machine/Step.lean ====
section
/-! DEFINITION. One step of the machine: the next event of the agenda, or the engine's turn. -/

namespace Sys2Proof.Machine

/-- One step (R9): one host access, one engine turn, or reset, each atomic with respect to the others (R71, R240). -/
def step (s : State) : Host.Outcome State Fault Refusal := runEvent (nextEvent s).1 (nextEvent s).2

/-- `s` with the instruction whose bits are `w` placed where the next step runs it (log 13). -/
def State.withFetchWord (s : State) (nbits w : Nat) : State := placeTableWord s nbits w

end Sys2Proof.Machine
end

