-- ==== Sys2Proof/Machine/Reference.lean ====
section
/-! DEFINITION. The algorithm as the spec gives it apart from the sequencer: `pad` (41_padder_buffer.md R150), `compress`
(42_compression.md R184), `absorb_byte` (40_host_commands.md R134) and `digest` (43_serializer.md R200). Claims compare the
engine with these; the step function does not use them. -/

namespace Sys2Proof.Machine

/-! ### Compression (R184) -/

/-- `f_r` for r = k div 16 (R171). -/
def mixOfRound (r : Nat) : Word → Word → Word → Word :=
  match r with
  | 0 => mixF
  | 1 => mixG
  | 2 => mixH
  | _ => mixI

/-- The registers with the target of group position p replaced: t plays "A" and x, y, z play "B", "C", "D", in the update
order A, D, C, B (R174). -/
def updateByRole (p : Nat) (q : Quad) (new : Word → Word → Word → Word → Word) : Quad :=
  match p with
  | 0 => { q with a := new q.a q.b q.c q.d }
  | 1 => { q with d := new q.d q.a q.b q.c }
  | 2 => { q with c := new q.c q.d q.a q.b }
  | _ => { q with b := new q.b q.c q.d q.a }

/-- `x + rotl32(t + f(x, y, z) + X + T, s)` (R178). -/
def stepFormula (f : Word → Word → Word → Word) (xw tw : Word) (s : Nat) (t x y z : Word) : Word :=
  x + rotl32 (t + f x y z + xw + tw) s

/-- Operation k of `compress` (R184). -/
def compressStep (X : Nat → Word) (q : Quad) (k : Nat) : Quad :=
  let k6 := BitVec.ofNat 6 k
  updateByRole (k % 4) q (stepFormula (mixOfRound (k / 16)) (X (wordIndex k6).toNat) (roundConst k6) (rotAmount k6))

/-- The 64 operations in order, from the chaining value (R184). -/
def compressRounds (h : Quad) (X : Nat → Word) (n : Nat) : Quad := (List.range n).foldl (compressStep X) h

/-- `compress(H, X)` (R184). -/
def compress (h : Quad) (X : Nat → Word) : Quad := (compressRounds h X 64).add h

/-! ### One byte into the block (R134) -/

/-- What `absorb_byte` works on: the chaining value, BUF and FILL. -/
structure BlockState where
  reg : Quad
  buf : Memory
  fill : Nat
deriving DecidableEq, Repr

/-- `X[0..15]` of a buffer (R23). -/
def bufWords (m : Memory) (j : Nat) : Word := wordView m (BitVec.ofNat 4 j)

/-- `absorb_byte(b)` (R134). -/
def absorbByte (t : BlockState) (b : Byte) : BlockState :=
  let m := t.buf.write t.fill b
  if t.fill + 1 = 64 then ⟨compress t.reg (bufWords m), m, 0⟩ else ⟨t.reg, m, t.fill + 1⟩

/-- Several bytes, one at a time. -/
def absorbBytes (t : BlockState) (bs : List Byte) : BlockState := bs.foldl absorbByte t

/-! ### Padding (R150) -/

/-- `K = (55 - N) mod 64`. -/
def padZeros (n : Nat) : Nat := (119 - n % 64) % 64

/-- The 8 bytes of `L = 8 * N`, least significant first. -/
def bitLengthBytes (n : Nat) : List Byte := (List.range 8).map (fun i => byteOf i (BitVec.ofNat 64 (8 * n)))

/-- `pad(M)`. -/
def padMessage (m : List Byte) : List Byte :=
  m ++ [0x80#8] ++ List.replicate (padZeros m.length) 0x00#8 ++ bitLengthBytes m.length

/-! ### Digest (R150, R160 item 3, R200) -/

/-- The word view of a 64-byte block (R23, R64). -/
def blockWords (block : List Byte) (j : Nat) : Word :=
  le32 (block.getD (4 * j) 0#8) (block.getD (4 * j + 1) 0#8) (block.getD (4 * j + 2) 0#8) (block.getD (4 * j + 3) 0#8)

/-- `n` blocks, strictly in order (R160 item 3). -/
def foldBlocks : Nat → List Byte → Quad → Quad
  | 0, _, h => h
  | n + 1, bs, h => foldBlocks n (bs.drop 64) (compress h (blockWords (bs.take 64)))

/-- The words W[0..3] of `digest(M)`: A, B, C, D after the last block of `pad(M)` from the initial state. -/
def digestWords (m : List Byte) : Quad := foldBlocks ((padMessage m).length / 64) (padMessage m) iv

/-- A word as 4 bytes, little-endian (R64). -/
def wordBytes (w : Word) : List Byte := [byteOf 0 w, byteOf 1 w, byteOf 2 w, byteOf 3 w]

/-- `digest(M)`: A, B, C, D little-endian, concatenated in that order (R200). -/
def digest (m : List Byte) : List Byte :=
  wordBytes (digestWords m).a ++ wordBytes (digestWords m).b ++ wordBytes (digestWords m).c ++ wordBytes (digestWords m).d

end Sys2Proof.Machine
end

