-- ==== Sys2Proof/Machine/Driver.lean ====
section
/-! DEFINITION. Sequences of events for claims about more than one step: event lists, the engine running until BUSY = 0,
and the driver sequences of 30_encoding.md R102. The step function does not use them. -/

namespace Sys2Proof.Machine

/-- Then, on a next state. -/
def andThen (o : Host.Outcome State Fault Refusal) (f : State → Host.Outcome State Fault Refusal) :
    Host.Outcome State Fault Refusal :=
  match o with
  | .next s => f s
  | .fault r => .fault r
  | .refused r => .refused r

/-- Events one after the other. -/
def runEvents : List Event → State → Host.Outcome State Fault Refusal
  | [], s => .next s
  | e :: es, s => andThen (runEvent e s) (runEvents es)

/-- The engine takes `n` turns. -/
def microTurns (n : Nat) (s : State) : Host.Outcome State Fault Refusal := runEvents (List.replicate n .micro) s

/-- At most this many micro-steps follow one command (R253). -/
def microStepBound : Nat := 197

/-- The engine takes turns until BUSY = 0, at most `n` of them. -/
def settle : Nat → State → Host.Outcome State Fault Refusal
  | 0, s => .next s
  | n + 1, s => if s.busy then andThen (runMicro s) (settle n) else .next s

/-- `wr REG, imm32` (R101). -/
def hostWrite (off : BitVec 6) (w : Word) (s : State) : Host.Outcome State Fault Refusal :=
  runAccess ⟨true, off, 4, w⟩ s

/-- `rd REG` (R101). -/
def hostReadAt (off : BitVec 6) (s : State) : Host.Outcome State Fault Refusal := runAccess ⟨false, off, 4, 0#32⟩ s

/-- `wr CMD, w`, then waiting for BUSY = 0 (R102, R243). -/
def sendCommand (w : Word) (s : State) : Host.Outcome State Fault Refusal :=
  andThen (hostWrite 0x00#6 w s) (settle microStepBound)

/-- The datum of a beat: its bytes little-endian, absent bytes 0 (R102). -/
def beatWord (bs : List Byte) : Word := le32 (bs.getD 0 0#8) (bs.getD 1 0#8) (bs.getD 2 0#8) (bs.getD 3 0#8)

/-- `0x00000002 | (nb - 1) << 4` (R102). -/
def absorbWord (nb : Nat) : Word := 0x00000002#32 ||| BitVec.ofNat 32 (nb - 1) <<< 4

/-- `ABSORB nb, data`, then waiting (R102). -/
def sendBeat (bs : List Byte) (s : State) : Host.Outcome State Fault Refusal :=
  andThen (hostWrite 0x08#6 (beatWord bs) s) (sendCommand (absorbWord bs.length))

/-- The beats of a message, in order. -/
def sendBeats : List (List Byte) → State → Host.Outcome State Fault Refusal
  | [], s => .next s
  | b :: bs, s => andThen (sendBeat b s) (sendBeats bs)

/-- INIT, the beats, FINAL, waiting after each (R136). -/
def hashBeats (beats : List (List Byte)) (s : State) : Host.Outcome State Fault Refusal :=
  andThen (sendCommand 0x00000001#32 s) fun t =>
    andThen (sendBeats beats t) (sendCommand 0x00000003#32)

end Sys2Proof.Machine
end

