-- ==== Sys2Proof/Safety.lean ====
section
/-! DEFINITION. What claims call a good state and a good run: the engine's invariant (10_state.md R24-R29,
41_padder_buffer.md R160), a successful run (70_reset_and_hazards.md R254), and events that command nothing. -/

namespace Sys2Proof.Machine

/-- USTATE is one of the three compression micro-states. -/
def UState.isCompress (u : BitVec 4) : Bool := [UState.cmpLoad, UState.cmpStep, UState.cmpAcc].elem u

/-- FILL, PCNT and MCNT in each micro-state (R24, R26, R151, R155, R157, R158, R160 items 1 and 4). -/
def countsAgree (s : State) : Prop :=
  if s.ustate = UState.ready ∨ s.ustate = UState.error ∨ s.ustate = UState.pad80 then
    s.pcnt = 0#3 ∧ s.fill.toNat = s.mcnt.toNat % 64
  else if s.ustate = UState.absByte then
    1 ≤ s.pcnt.toNat ∧ s.pcnt.toNat ≤ 4 ∧ s.fill.toNat ≤ 63 ∧
      (s.fill.toNat + s.pcnt.toNat) % 64 = s.mcnt.toNat % 64
  else if UState.isCompress s.ustate then
    s.fill = 64#7 ∧
      if s.ret = Ret.abs then s.pcnt.toNat ≤ 3 ∧ s.pcnt.toNat = s.mcnt.toNat % 64 else s.pcnt = 0#3
  else if s.ustate = UState.padZero then s.pcnt = 0#3 ∧ s.fill.toNat ≤ 63 ∧ s.fill ≠ 56#7
  else if s.ustate = UState.padLen then s.pcnt = 0#3 ∧ s.fill = 56#7
  else s.pcnt = 0#3 ∧ s.fill = 0#7

/-- The engine's invariant. -/
structure Inv (s : State) : Prop where
  /-- BUF's contents are in canonical form. -/
  bufWf : s.buf.wf
  /-- USTATE is a micro-state (R27, E6). -/
  ustateLegal : s.busy = true ∨ s.idle = true
  /-- RET is not 3 (R29, E7). -/
  retLegal : s.ret = Ret.abs ∨ s.ret = Ret.pad ∨ s.ret = Ret.done
  /-- FILL, PCNT and MCNT fit the micro-state. -/
  counts : countsAgree s
  /-- ERR_OVF is set exactly in U_ERROR (R215, R218). -/
  overflow : s.errOvf = true ↔ s.ustate = UState.error

/-- A successful hashing run (R254). -/
def State.successful (s : State) : Prop :=
  s.done = true ∧ s.errOvf = false ∧ s.errCmd = false ∧ s.errBusy = false

/-- An event that commands nothing: an engine turn, a legal read, or a write of DIN. -/
def Event.isQuiet : Event → Bool
  | .micro => true
  | .reset => false
  | .access a =>
    decide (a.size = 4) &&
      (if a.write then decide (a.off = 0x08#6)
       else [0x04#6, 0x08#6, 0x10#6, 0x14#6, 0x20#6, 0x24#6, 0x28#6, 0x2C#6].elem a.off)

/-- The ten legal accesses (R62): direction and offset, at size 4. -/
def legalPairs : List (Bool × BitVec 6) :=
  [(false, 0x04#6), (false, 0x08#6), (false, 0x10#6), (false, 0x14#6), (false, 0x20#6), (false, 0x24#6),
    (false, 0x28#6), (false, 0x2C#6), (true, 0x00#6), (true, 0x08#6)]

/-- A legal host access (R62). -/
def Access.isLegal (a : Access) : Bool := decide (a.size = 4) && legalPairs.elem (a.write, a.off)

/-- The eight legal CMD words (R92). -/
def legalCommandWords : List Word :=
  [0x00000000#32, 0x00000001#32, 0x00000002#32, 0x00000012#32, 0x00000022#32, 0x00000032#32, 0x00000003#32,
    0x00000004#32]

/-- Reset, or a write of the INIT word to CMD: what ends a message (R203, R218). -/
def Event.isRestart : Event → Bool
  | .micro => false
  | .reset => true
  | .access a => a.write && decide (a.off = 0x00#6) && decide (a.data = 0x00000001#32)

/-- BUSY = 1 for exactly `n` engine turns from here (R251). -/
def busyExactly (n : Nat) (s : State) : Prop :=
  (∀ m, m < n → ∃ u, microTurns m s = .next u ∧ u.busy = true) ∧ ∃ u, microTurns n s = .next u ∧ u.idle = true

/-- Two states agree on everything the spec gives a value at reset, and on what the host has read: all but AA..DD, BUF,
PEND, STEP and RET (R41). -/
def SameSpecified (s t : State) : Prop :=
  s.reg = t.reg ∧ s.fill = t.fill ∧ s.mcnt = t.mcnt ∧ s.pcnt = t.pcnt ∧ s.ustate = t.ustate ∧ s.errOvf = t.errOvf ∧
    s.errCmd = t.errCmd ∧ s.errBusy = t.errBusy ∧ s.din = t.din ∧ s.rdata = t.rdata

/-- Every index other than those from `i` on, `n` of them, reads in `m'` as in `m`. -/
def SameOutside (i n : Nat) (m m' : Memory) : Prop := ∀ k, (k < i ∨ i + n ≤ k) → m'.read k = m.read k

/-- The engine without the host's side of the window: DIN, what the host has read, and what is to come. -/
def State.engineView (s : State) : State := ((s.withDin 0#32).withRdata 0#32).withAgenda []

end Sys2Proof.Machine
end

