-- ==== Sys2Proof/Certificates/Slice0/Obligations.lean ====
section
/-! DEFINITION. The statements for the provers. Each docstring names the rule of spec/ it formalises. -/

open Sys2Proof Sys2Proof.Machine

/-! ### Encodings -/

/-- R91, R94, R95: no bit of an instruction's encoding is dropped. -/
def Obligations.DecodeOfEncodeIsTheInstruction : Prop :=
  ∀ i : Instr, WellFormed i → decode (encode i) = .ok i

/-- R90-R95: a word has one meaning. What decodes to an instruction is its encoding, up to the bits that its row leaves
free (a read's datum, and STEP outside U_CMP_STEP); and it is well-formed. -/
def Obligations.EncodeOfDecodeIsTheWord : Prop :=
  ∀ (e : Encoded) (i : Instr), decode e = .ok i → WellFormed i ∧ encode i = e.cared

/-- R92: the opcode values, and the eight legal words. -/
def Obligations.ExactlyEightCommandWordsAreLegal : Prop :=
  decodeCmd 0x00000000#32 = .ok .nop ∧ decodeCmd 0x00000001#32 = .ok .init ∧
  decodeCmd 0x00000002#32 = .ok (.absorb 1) ∧ decodeCmd 0x00000012#32 = .ok (.absorb 2) ∧
  decodeCmd 0x00000022#32 = .ok (.absorb 3) ∧ decodeCmd 0x00000032#32 = .ok (.absorb 4) ∧
  decodeCmd 0x00000003#32 = .ok .final ∧ decodeCmd 0x00000004#32 = .ok .clrerr ∧
  ∀ w : Word, (∃ i, decodeCmd w = .ok i) ↔ w ∈ legalCommandWords

/-- A few words of the tables of R92, R94, R95, carried as the opcode table's rows are: DESIGN CHOICE (log 13), not the
rules', are the 8 and 16 bits around a bus pattern and a UOP word, and the datum 0 beside a pattern alone. -/
def Obligations.SampleWordsDecode : Prop :=
  decodeTableWord 32 0b00000000000000000000000000100010 = some (.absorb 3) ∧
  decodeTableWord 32 0b00000000000000000000000000000100 = some .clrerr ∧
  decodeTableWord 32 0b00000000000000000000000000010011 = none ∧
  decodeTableWord 8 0b01000000 = some (.wrCmd 0#32) ∧
  decodeTableWord 8 0b00010100 = some .rdLenHi ∧
  decodeTableWord 8 0b00101100 = some .rdDigest3 ∧
  decodeTableWord 8 0b00001100 = none ∧
  decodeTableWord 16 0b0000000001101010 = some .absByte ∧
  decodeTableWord 16 0b0000000011011001 = some (.stepG 9#4) ∧
  decodeTableWord 16 0b0000000111000000 = some .padLen ∧
  decodeTableWord 16 0b0000001000000000 = none

/-! ### A step -/

/-- R62, R120, R212: a legal access runs its instruction; any other is a BusError of the access, which reaches no register
(the answer holds no state). -/
def Obligations.StepServesTheHostAccess : Prop :=
  ∀ (s : State) (a : Access) (rest : List Event), s.agenda = .access a :: rest →
    (a.isLegal = false → step s = .fault (.busError a.off)) ∧
    (a.isLegal = true → ∃ i, WellFormed i ∧ decodeBus a.pattern a.data = .ok i ∧
      step s = exec i { s with agenda := rest })

/-- R9, R95: the engine's turn runs the micro-operation that USTATE and STEP select. -/
def Obligations.StepRunsTheSelectedMicroOp : Prop :=
  ∀ (s : State) (i : Instr), decodeUop (uopWord s.ustate s.stepCtr) = .ok i →
    (∀ rest, s.agenda = .micro :: rest → step s = exec i { s with agenda := rest }) ∧
    (s.agenda = [] → step s = exec i s)

/-- R225: the engine's turn in U_READY, U_DONE and U_ERROR changes nothing. -/
def Obligations.IdleEngineHoldsAllState : Prop :=
  ∀ s : State, s.ustate = UState.ready ∨ s.ustate = UState.done ∨ s.ustate = UState.error →
    (s.agenda = [] → step s = .next s) ∧
    (∀ rest, s.agenda = .micro :: rest → step s = .next { s with agenda := rest })

/-- Log 13 (DESIGN CHOICE): a placed instruction is the one the next step runs. -/
def Obligations.PlacedTableWordRunsNext : Prop :=
  ∀ (s : State) (nbits w : Nat) (i : Instr), decodeTableWord nbits w = some i →
    (nbits ≠ 16 → nbits ≠ 10 → step (s.withFetchWord nbits w) = exec i s) ∧
    (nbits = 16 ∨ nbits = 10 → ∃ c : BitVec 3, (i ≠ .absByte → c = s.pcnt) ∧
      step (s.withFetchWord nbits w) =
        exec i { s with ustate := BitVec.ofNat 4 (w / 64), stepCtr := BitVec.ofNat 6 w, pcnt := c })

/-- R240: reset, whatever the engine is doing. That the rest of the agenda stays (the last clause) is log 15's DESIGN
CHOICE. -/
def Obligations.ResetGivesTheResetValues : Prop :=
  ∀ (s : State) (rest : List Event), s.agenda = .reset :: rest → ∃ t, step s = .next t ∧
    t.reg = ⟨0x67452301#32, 0xEFCDAB89#32, 0x98BADCFE#32, 0x10325476#32⟩ ∧
    t.fill = 0#7 ∧ t.mcnt = 0#61 ∧ t.pcnt = 0#3 ∧ t.ustate = UState.ready ∧
    t.errOvf = false ∧ t.errCmd = false ∧ t.errBusy = false ∧ t.din = 0#32 ∧ t.agenda = rest

/-- R61: the window decodes the offset bits [5:0] of the address, whatever the base. -/
def Obligations.WindowOffsetIsTheLowAddressBits : Prop :=
  ∀ addr : Nat, Config.md5deBase ≤ addr → windowOffset addr = BitVec.ofNat 6 addr

/-! ### Commands -/

/-- R121: a write of CMD while busy is dropped whatever the word, and sets ERR_BUSY and nothing else; so is each command.
With BUSY = 0 the word reaches the decoder. -/
def Obligations.CommandWhileBusyIsDropped : Prop :=
  ∀ s : State,
    (s.busy = true → ∀ (w : Word) (nb : Nat),
      exec (.wrCmd w) s = .next { s with errBusy := true } ∧ exec .nop s = .next { s with errBusy := true } ∧
      exec .init s = .next { s with errBusy := true } ∧ exec (.absorb nb) s = .next { s with errBusy := true } ∧
      exec .final s = .next { s with errBusy := true } ∧ exec .clrerr s = .next { s with errBusy := true }) ∧
    (s.idle = true → ∀ w : Word, exec (.wrCmd w) s = decodeAndExecute w s)

/-- R122: with BUSY = 0, each legal word runs its command, and an illegal one, by its fields, sets ERR_CMD and changes
nothing else. -/
def Obligations.AcceptedWordRunsItsCommand : Prop :=
  ∀ s : State, s.idle = true →
    exec (.wrCmd 0x00000000#32) s = exec .nop s ∧ exec (.wrCmd 0x00000001#32) s = exec .init s ∧
    exec (.wrCmd 0x00000002#32) s = exec (.absorb 1) s ∧ exec (.wrCmd 0x00000012#32) s = exec (.absorb 2) s ∧
    exec (.wrCmd 0x00000022#32) s = exec (.absorb 3) s ∧ exec (.wrCmd 0x00000032#32) s = exec (.absorb 4) s ∧
    exec (.wrCmd 0x00000003#32) s = exec .final s ∧ exec (.wrCmd 0x00000004#32) s = exec .clrerr s ∧
    ∀ w : Word,
      w.toNat / 64 ≠ 0 ∨ 5 ≤ w.toNat % 16 ∨ (w.toNat % 16 ≠ 2 ∧ w.toNat / 16 % 4 ≠ 0) →
      exec (.wrCmd w) s = .next { s with errCmd := true }

/-- R93: every word but the eight is illegal; accepted it sets ERR_CMD alone, while busy ERR_BUSY alone. -/
def Obligations.EveryOtherWordIsIllegal : Prop :=
  ∀ (s : State) (w : Word),
    (w ∉ legalCommandWords ↔
      w.toNat / 64 ≠ 0 ∨ 5 ≤ w.toNat % 16 ∨ (w.toNat % 16 ≠ 2 ∧ w.toNat / 16 % 4 ≠ 0)) ∧
    (w ∉ legalCommandWords → s.idle = true → exec (.wrCmd w) s = .next { s with errCmd := true }) ∧
    (s.busy = true → exec (.wrCmd w) s = .next { s with errBusy := true })

/-- R123: NOP has no effect in every waiting phase; while busy it is dropped. -/
def Obligations.NopHasNoEffect : Prop :=
  ∀ s : State, (s.idle = true → exec .nop s = .next s) ∧
    (s.busy = true → exec .nop s = .next { s with errBusy := true })

/-- R124: INIT from U_READY, U_DONE or U_ERROR. -/
def Obligations.InitStartsAMessage : Prop :=
  ∀ s : State,
    (s.idle = true → exec .init s = .next { s with
      reg := ⟨0x67452301#32, 0xEFCDAB89#32, 0x98BADCFE#32, 0x10325476#32⟩
      fill := 0#7, mcnt := 0#61, pcnt := 0#3
      errOvf := false, errCmd := false, errBusy := false
      ustate := UState.ready }) ∧
    (s.busy = true → exec .init s = .next { s with errBusy := true })

/-- R125: CLRERR clears ERR_CMD and ERR_BUSY, not ERR_OVF, and leaves U_ERROR where it is. Its opcode with any other bit
set is illegal and sets ERR_CMD instead. -/
def Obligations.ClrerrClearsTheCommandErrors : Prop :=
  ∀ s : State,
    (s.idle = true → exec .clrerr s = .next { s with errCmd := false, errBusy := false }) ∧
    (s.busy = true → exec .clrerr s = .next { s with errBusy := true }) ∧
    (s.idle = true → ∀ w : Word, w.toNat % 16 = 4 → w ≠ 0x00000004#32 → exec (.wrCmd w) s = .next { s with errCmd := true })

/-- R126: ABSORB and FINAL in U_DONE or U_ERROR set ERR_CMD and change nothing else. -/
def Obligations.WrongPhaseSetsErrCmd : Prop :=
  ∀ (s : State) (nb : Nat), s.ustate = UState.done ∨ s.ustate = UState.error →
    exec (.absorb nb) s = .next { s with errCmd := true } ∧ exec .final s = .next { s with errCmd := true }

/-- R127: ABSORB nb in U_READY: the beat, or LengthOverflow on the whole beat; elsewhere ERR_CMD; while busy dropped. -/
def Obligations.AbsorbTakesABeat : Prop :=
  ∀ (s : State) (nb : Nat), 1 ≤ nb → nb ≤ 4 →
    (s.ustate = UState.ready → s.mcnt.toNat + nb ≤ 2 ^ 61 - 1 → ∃ t, exec (.absorb nb) s = .next t ∧
      t = { s with mcnt := t.mcnt, pend := s.din, pcnt := t.pcnt, ustate := UState.absByte } ∧
      t.mcnt.toNat = s.mcnt.toNat + nb ∧ t.pcnt.toNat = nb ∧ t.busy = true) ∧
    (s.ustate = UState.ready → 2 ^ 61 - 1 < s.mcnt.toNat + nb →
      exec (.absorb nb) s = .next { s with errOvf := true, ustate := UState.error }) ∧
    (s.idle = true → s.ustate ≠ UState.ready → exec (.absorb nb) s = .next { s with errCmd := true }) ∧
    (s.busy = true → exec (.absorb nb) s = .next { s with errBusy := true })

/-- 40_host_commands.md section 3 (R128): FINAL in U_READY starts the padding, whatever MCNT. -/
def Obligations.FinalStartsThePadding : Prop :=
  ∀ s : State,
    (s.ustate = UState.ready → exec .final s = .next { s with ustate := UState.pad80 }) ∧
    (s.idle = true → s.ustate ≠ UState.ready → exec .final s = .next { s with errCmd := true }) ∧
    (s.busy = true → exec .final s = .next { s with errBusy := true })

/-! ### Registers -/

/-- R130: a write of DIN, in every phase and while busy. -/
def Obligations.DinWriteSetsDinOnly : Prop :=
  ∀ (s : State) (data : Word), exec (.wrDin data) s = .next { s with din := data }

/-- R131, R132, R133: DIN, MCNT[31:0] and MCNT[60:32] zero-extended, with no side effect. -/
def Obligations.DinAndLengthReads : Prop :=
  ∀ s : State,
    exec .rdDin s = .next { s with rdata := s.din } ∧
    exec .rdLenLo s = .next { s with rdata := BitVec.ofNat 32 (s.mcnt.toNat % 2 ^ 32) } ∧
    exec .rdLenHi s = .next { s with rdata := BitVec.ofNat 32 (s.mcnt.toNat / 2 ^ 32) }

/-- R129 with the fields of R31 and R27: STATUS, bit by bit, with no side effect. -/
def Obligations.StatusReadReturnsItsFields : Prop :=
  ∀ s : State, s.ustate.toNat ≤ 9 → s.fill.toNat ≤ 64 → ∃ w : Word, exec .rdStatus s = .next { s with rdata := w } ∧
    w.getLsbD 0 = decide (1 ≤ s.ustate.toNat ∧ s.ustate.toNat ≤ 7) ∧
    w.getLsbD 1 = decide (s.ustate = 8#4) ∧
    w.getLsbD 2 = s.errOvf ∧ w.getLsbD 3 = s.errCmd ∧ w.getLsbD 4 = s.errBusy ∧
    w.extractLsb' 5 3 = 0#3 ∧ w.extractLsb' 8 7 = s.fill ∧ w.getLsbD 15 = false ∧
    (w.extractLsb' 16 3).toNat = [0, 1, 2, 2, 2, 3, 3, 3, 4, 5].getD s.ustate.toNat 7 ∧
    w.extractLsb' 19 13 = 0#13

/-- R201: DIGESTk is the accumulator in U_DONE and 0 in every other micro-state; no side effect. -/
def Obligations.DigestReadsOnlyWhenDone : Prop :=
  ∀ s : State,
    (s.ustate = UState.done →
      exec .rdDigest0 s = .next { s with rdata := s.reg.a } ∧ exec .rdDigest1 s = .next { s with rdata := s.reg.b } ∧
      exec .rdDigest2 s = .next { s with rdata := s.reg.c } ∧ exec .rdDigest3 s = .next { s with rdata := s.reg.d }) ∧
    (s.ustate.toNat ≤ 9 → s.ustate ≠ UState.done →
      exec .rdDigest0 s = .next { s with rdata := 0#32 } ∧ exec .rdDigest1 s = .next { s with rdata := 0#32 } ∧
      exec .rdDigest2 s = .next { s with rdata := 0#32 } ∧ exec .rdDigest3 s = .next { s with rdata := 0#32 })

/-- R200, R202: in U_DONE, byte lane i of the word read from DIGESTk is byte 4k + i of the digest A, B, C, D serialized
little-endian. -/
def Obligations.DigestLanesAreTheDigestBytes : Prop :=
  ∀ s : State, s.ustate = UState.done →
    ∃ w : Nat → Word,
      exec .rdDigest0 s = .next { s with rdata := w 0 } ∧ exec .rdDigest1 s = .next { s with rdata := w 1 } ∧
      exec .rdDigest2 s = .next { s with rdata := w 2 } ∧ exec .rdDigest3 s = .next { s with rdata := w 3 } ∧
      ∀ k i, k < 4 → i < 4 →
        (wordBytes s.reg.a ++ wordBytes s.reg.b ++ wordBytes s.reg.c ++ wordBytes s.reg.d)[4 * k + i]? =
          some (BitVec.ofNat 8 ((w k).toNat / 2 ^ (8 * i)))

/-! ### Padder micro-operations -/

/-- R151: ABS_BYTE, with the transitions tested on the old FILL and PCNT; BUF changes at index FILL alone. -/
def Obligations.AbsByteMovesOneByte : Prop :=
  ∀ s : State, s.buf.wf → 1 ≤ s.pcnt.toNat → s.pcnt.toNat ≤ 4 → s.fill.toNat ≤ 63 → ∃ t, exec .absByte s = .next t ∧
    t.buf.read s.fill.toNat = BitVec.ofNat 8 s.pend.toNat ∧ SameOutside s.fill.toNat 1 s.buf t.buf ∧
    t.fill.toNat = s.fill.toNat + 1 ∧ t.pend.toNat = s.pend.toNat / 256 ∧ t.pcnt.toNat = s.pcnt.toNat - 1 ∧
    (t.ret, t.ustate) =
      (if s.fill.toNat + 1 = 64 then (Ret.abs, UState.cmpLoad)
       else if s.pcnt.toNat - 1 = 0 then (s.ret, UState.ready) else (s.ret, UState.absByte)) ∧
    t = { s with buf := t.buf, fill := t.fill, pend := t.pend, pcnt := t.pcnt, ret := t.ret, ustate := t.ustate }

/-- R155: PAD_80. -/
def Obligations.Pad80WritesTheMarker : Prop :=
  ∀ s : State, s.buf.wf → s.fill.toNat ≤ 63 → ∃ t, exec .pad80 s = .next t ∧
    t.buf.read s.fill.toNat = 0x80#8 ∧ SameOutside s.fill.toNat 1 s.buf t.buf ∧ t.fill.toNat = s.fill.toNat + 1 ∧
    (t.ret, t.ustate) =
      (if s.fill.toNat = 63 then (Ret.pad, UState.cmpLoad)
       else if s.fill.toNat = 55 then (s.ret, UState.padLen) else (s.ret, UState.padZero)) ∧
    t = { s with buf := t.buf, fill := t.fill, ret := t.ret, ustate := t.ustate }

/-- 41_padder_buffer.md section 2 (R157): PAD_ZERO. -/
def Obligations.PadZeroWritesAZeroByte : Prop :=
  ∀ s : State, s.buf.wf → s.fill.toNat ≤ 63 → ∃ t, exec .padZero s = .next t ∧
    t.buf.read s.fill.toNat = 0x00#8 ∧ SameOutside s.fill.toNat 1 s.buf t.buf ∧ t.fill.toNat = s.fill.toNat + 1 ∧
    (t.ret, t.ustate) =
      (if s.fill.toNat = 63 then (Ret.pad, UState.cmpLoad)
       else if s.fill.toNat = 55 then (s.ret, UState.padLen) else (s.ret, UState.padZero)) ∧
    t = { s with buf := t.buf, fill := t.fill, ret := t.ret, ustate := t.ustate }

/-- R158: PAD_LEN writes all 8 bytes of 8 * MCNT at BUF[56..63], least significant first, in the word view X[14] and
X[15]; no other byte changes. -/
def Obligations.PadLenWritesTheLengthField : Prop :=
  ∀ s : State, s.buf.wf → ∃ t, exec .padLen s = .next t ∧
    (∀ i, i < 8 → t.buf.read (56 + i) = BitVec.ofNat 8 (8 * s.mcnt.toNat / 256 ^ i)) ∧
    SameOutside 56 8 s.buf t.buf ∧
    (wordView t.buf 14#4).toNat = 8 * s.mcnt.toNat % 2 ^ 32 ∧ (wordView t.buf 15#4).toNat = 8 * s.mcnt.toNat / 2 ^ 32 ∧
    t = { s with buf := t.buf, fill := 64#7, ret := Ret.done, ustate := UState.cmpLoad }

/-- R161: properties of `pad`. -/
def Obligations.PadProperties : Prop :=
  ∀ m : List Byte,
    let n := m.length
    (padMessage m).length % 64 = 0 ∧ n + 9 ≤ (padMessage m).length ∧
    (padMessage m).length / 64 = (n + 8) / 64 + 1 ∧
    (n % 64 ≤ 55 → (padMessage m).length / 64 = n / 64 + 1) ∧
    (56 ≤ n % 64 → (padMessage m).length / 64 = n / 64 + 2 ∧
      ∀ i, n + 1 ≤ i → i < (padMessage m).length - 8 → (padMessage m)[i]? = some 0x00#8) ∧
    (padZeros n = 0 ↔ n % 64 = 55) ∧ (padZeros n = 63 ↔ n % 64 = 56) ∧
    (n = 55 → (padMessage m).length = 64) ∧ (n = 56 ∨ n = 57 → (padMessage m).length = 128)

/-- 41_padder_buffer.md section 1 (R150): `pad(M)` byte by byte: the message, 0x80, K zero bytes where K is the smallest
number that makes the length 56 modulo 64, and, last, the 8 bytes of 8 * N, least significant first. -/
def Obligations.PadIsTheSmallest : Prop :=
  ∀ m : List Byte, m.length ≤ 2 ^ 61 - 1 →
    (m.length + 1 + padZeros m.length) % 64 = 56 ∧
    (∀ k, (m.length + 1 + k) % 64 = 56 → padZeros m.length ≤ k) ∧
    (padMessage m).length = m.length + 1 + padZeros m.length + 8 ∧
    (∀ i, i < m.length → (padMessage m)[i]? = m[i]?) ∧
    (∀ i, m.length + 1 ≤ i → i < m.length + 1 + padZeros m.length → (padMessage m)[i]? = some 0x00#8) ∧
    (∀ i, i < 8 → (padMessage m)[m.length + 1 + padZeros m.length + i]? =
      some (BitVec.ofNat 8 (8 * m.length / 256 ^ i))) ∧
    (padMessage m)[m.length]? = some 0x80#8

/-! ### Compressor micro-operations -/

/-- R176: CMP_LOAD. -/
def Obligations.CmpLoadSavesTheChainingValue : Prop :=
  ∀ s : State, exec .cmpLoad s = .next { s with saved := s.reg, stepCtr := 0#6, ustate := UState.cmpStep }

/-- R178 with R174, R97, R98 and the values T[0..15] of R99: STEP_F at k = STEP. Only the target register and
STEP change. -/
def Obligations.StepFIsRoundZero : Prop :=
  ∀ (s : State) (j : BitVec 4), s.stepCtr.toNat = j.toNat → exec (.stepF j) s = .next { s with
    reg := updateByRole (j.toNat % 4) s.reg
      (stepFormula (fun x y z => (x &&& y) ||| (~~~x &&& z)) (wordView s.buf j)
        ([0xD76AA478#32, 0xE8C7B756#32, 0x242070DB#32, 0xC1BDCEEE#32,
          0xF57C0FAF#32, 0x4787C62A#32, 0xA8304613#32, 0xFD469501#32,
          0x698098D8#32, 0x8B44F7AF#32, 0xFFFF5BB1#32, 0x895CD7BE#32,
          0x6B901122#32, 0xFD987193#32, 0xA679438E#32, 0x49B40821#32].getD j.toNat 0#32)
        ([7, 12, 17, 22].getD (j.toNat % 4) 0))
    stepCtr := BitVec.ofNat 6 (j.toNat + 1) }

/-- R179 with R174, R97, R98 and the values T[16..31] of R99: STEP_G at k = STEP. -/
def Obligations.StepGIsRoundOne : Prop :=
  ∀ (s : State) (j : BitVec 4), s.stepCtr.toNat = 16 + j.toNat → exec (.stepG j) s = .next { s with
    reg := updateByRole (j.toNat % 4) s.reg
      (stepFormula (fun x y z => (x &&& z) ||| (y &&& ~~~z)) (wordView s.buf (BitVec.ofNat 4 ((1 + 5 * j.toNat) % 16)))
        ([0xF61E2562#32, 0xC040B340#32, 0x265E5A51#32, 0xE9B6C7AA#32,
          0xD62F105D#32, 0x02441453#32, 0xD8A1E681#32, 0xE7D3FBC8#32,
          0x21E1CDE6#32, 0xC33707D6#32, 0xF4D50D87#32, 0x455A14ED#32,
          0xA9E3E905#32, 0xFCEFA3F8#32, 0x676F02D9#32, 0x8D2A4C8A#32].getD j.toNat 0#32)
        ([5, 9, 14, 20].getD (j.toNat % 4) 0))
    stepCtr := BitVec.ofNat 6 (16 + j.toNat + 1) }

/-- R180 with R174, R97, R98 and the values T[32..47] of R99: STEP_H at k = STEP. -/
def Obligations.StepHIsRoundTwo : Prop :=
  ∀ (s : State) (j : BitVec 4), s.stepCtr.toNat = 32 + j.toNat → exec (.stepH j) s = .next { s with
    reg := updateByRole (j.toNat % 4) s.reg
      (stepFormula (fun x y z => x ^^^ y ^^^ z) (wordView s.buf (BitVec.ofNat 4 ((5 + 3 * j.toNat) % 16)))
        ([0xFFFA3942#32, 0x8771F681#32, 0x6D9D6122#32, 0xFDE5380C#32,
          0xA4BEEA44#32, 0x4BDECFA9#32, 0xF6BB4B60#32, 0xBEBFBC70#32,
          0x289B7EC6#32, 0xEAA127FA#32, 0xD4EF3085#32, 0x04881D05#32,
          0xD9D4D039#32, 0xE6DB99E5#32, 0x1FA27CF8#32, 0xC4AC5665#32].getD j.toNat 0#32)
        ([4, 11, 16, 23].getD (j.toNat % 4) 0))
    stepCtr := BitVec.ofNat 6 (32 + j.toNat + 1) }

/-- R181 with R174, R97, R98, R182 and the values T[48..63] of R99: STEP_I at k = STEP; the last operation,
k = 63, goes to U_CMP_ACC. -/
def Obligations.StepIIsRoundThree : Prop :=
  ∀ (s : State) (j : BitVec 4), s.stepCtr.toNat = 48 + j.toNat → exec (.stepI j) s = .next { s with
    reg := updateByRole (j.toNat % 4) s.reg
      (stepFormula (fun x y z => y ^^^ (x ||| ~~~z)) (wordView s.buf (BitVec.ofNat 4 (7 * j.toNat % 16)))
        ([0xF4292244#32, 0x432AFF97#32, 0xAB9423A7#32, 0xFC93A039#32,
          0x655B59C3#32, 0x8F0CCC92#32, 0xFFEFF47D#32, 0x85845DD1#32,
          0x6FA87E4F#32, 0xFE2CE6E0#32, 0xA3014314#32, 0x4E0811A1#32,
          0xF7537E82#32, 0xBD3AF235#32, 0x2AD7D2BB#32, 0xEB86D391#32].getD j.toNat 0#32)
        ([6, 10, 15, 21].getD (j.toNat % 4) 0))
    stepCtr := if j.toNat = 15 then 0#6 else BitVec.ofNat 6 (48 + j.toNat + 1)
    ustate := if j.toNat = 15 then UState.cmpAcc else s.ustate }

/-- R182: the step counter, one turn at a time, and every operation exactly once in increasing order. -/
def Obligations.StepCounterAdvances : Prop :=
  ∀ s : State, s.ustate = UState.cmpStep →
    (∃ t, runMicro s = .next t ∧
      (s.stepCtr = 63#6 → t.stepCtr = 0#6 ∧ t.ustate = UState.cmpAcc) ∧
      (s.stepCtr ≠ 63#6 → t.stepCtr.toNat = s.stepCtr.toNat + 1 ∧ t.ustate = UState.cmpStep)) ∧
    (s.stepCtr = 0#6 → ∀ n, n < 64 → ∃ t, microTurns n s = .next t ∧ t.stepCtr.toNat = n ∧ t.ustate = UState.cmpStep)

/-- R183: CMP_ACC, by RET. -/
def Obligations.CmpAccFeedsForward : Prop :=
  ∀ s : State,
    let r : Quad := ⟨s.reg.a + s.saved.a, s.reg.b + s.saved.b, s.reg.c + s.saved.c, s.reg.d + s.saved.d⟩
    (s.ret = Ret.done → exec .cmpAcc s = .next { s with reg := r, fill := 0#7, ustate := UState.done }) ∧
    (s.ret = Ret.pad → exec .cmpAcc s = .next { s with reg := r, fill := 0#7, ustate := UState.padZero }) ∧
    (s.ret = Ret.abs → 1 ≤ s.pcnt.toNat → s.pcnt.toNat ≤ 4 →
      exec .cmpAcc s = .next { s with reg := r, fill := 0#7, ustate := UState.absByte }) ∧
    (s.ret = Ret.abs → s.pcnt = 0#3 →
      exec .cmpAcc s = .next { s with reg := r, fill := 0#7, ustate := UState.ready })

/-- 42_compression.md section 1 (R170, R171): F, G, H, I bit by bit. -/
def Obligations.MixingFunctionsAreBitwiseMuxes : Prop :=
  ∀ (x y z : Word) (i : Nat), i < 32 →
    (mixF x y z).getLsbD i = (if x.getLsbD i then y.getLsbD i else z.getLsbD i) ∧
    (mixG x y z).getLsbD i = (if z.getLsbD i then x.getLsbD i else y.getLsbD i) ∧
    (mixH x y z).getLsbD i = ((x.getLsbD i != y.getLsbD i) != z.getLsbD i) ∧
    (mixI x y z).getLsbD i = (y.getLsbD i != (x.getLsbD i || !z.getLsbD i))

/-- R173: the rotator moves bit i to bit (i + s) mod 32 for every amount of table S, and S holds no other amount than the
sixteen listed. -/
def Obligations.RotatorMovesEachBit : Prop :=
  (∀ k : BitVec 6, rotAmount k ∈ [4, 5, 6, 7, 9, 10, 11, 12, 14, 15, 16, 17, 20, 21, 22, 23]) ∧
  ∀ (v : Word) (k : BitVec 6) (i : Nat), i < 32 →
    (rotl32 v (rotAmount k)).getLsbD ((i + rotAmount k) % 32) = v.getLsbD i

/-- R98: g(k) by round, and each round uses every message word exactly once. -/
def Obligations.WordIndexScheduleIsAPermutation : Prop :=
  (∀ k : BitVec 6, (wordIndex k).toNat =
    match k.toNat / 16 with
    | 0 => k.toNat % 16
    | 1 => (1 + 5 * (k.toNat % 16)) % 16
    | 2 => (5 + 3 * (k.toNat % 16)) % 16
    | _ => 7 * (k.toNat % 16) % 16) ∧
  ∀ r, r < 4 → ∀ i, i < 16 → ∃ j, j < 16 ∧ (wordIndex (BitVec.ofNat 6 (16 * r + j))).toNat = i ∧
    ∀ j', j' < 16 → (wordIndex (BitVec.ofNat 6 (16 * r + j'))).toNat = i → j' = j

/-! ### Invariants and whole-machine rules -/

/-- Equal reads are equal buffers: the canonical form is one (log 4's representation). -/
def Obligations.EqualReadsAreEqualBuffers : Prop :=
  ∀ m m' : Memory, m.wf → m'.wf → (∀ i, i < bufBytes → m.read i = m'.read i) → m = m'

/-- The invariant holds after reset. -/
def Obligations.ResetStateMeetsTheInvariant : Prop := Inv State.reset

/-- R24-R29, R160: every step keeps the invariant, whatever the agenda. -/
def Obligations.StepKeepsTheInvariant : Prop :=
  ∀ s t : State, Inv s → step s = .next t → Inv t

/-- R24, R26, R160 items 1 and 4: what the invariant says of FILL and PCNT. -/
def Obligations.InvariantBoundsTheCounts : Prop :=
  ∀ s : State, Inv s →
    s.fill.toNat ≤ 64 ∧ s.pcnt.toNat ≤ 4 ∧
    (s.fill.toNat = 64 ↔ s.ustate = UState.cmpLoad ∨ s.ustate = UState.cmpStep ∨ s.ustate = UState.cmpAcc) ∧
    (s.busy = false → s.fill.toNat ≤ 63 ∧ s.pcnt = 0#3) ∧
    (s.ustate = UState.ready → s.fill.toNat = s.mcnt.toNat % 64) ∧
    (s.errOvf = true ↔ s.ustate = UState.error)

/-- R210-R212, R29: under the invariant a step stops only on an illegal host access. -/
def Obligations.OnlyAnIllegalAccessStops : Prop :=
  ∀ s : State, Inv s →
    (∃ t, step s = .next t) ∨
    ∃ a rest, s.agenda = .access a :: rest ∧ a.isLegal = false ∧ step s = .fault (.busError a.off)

/-- 93_implementation_defined.md E5-E8 (log 9, DEDUCED, for FILL = 64 and PCNT = 0): where an unreachable value is met, the
machine faults. -/
def Obligations.UnreachableValuesFault : Prop :=
  ∀ s : State,
    (9 < s.ustate.toNat →
      runMicro s = .fault (.unreachableUState s.ustate) ∧
      exec .rdStatus s = .fault (.unreachableUState s.ustate) ∧
      exec .rdDigest0 s = .fault (.unreachableUState s.ustate) ∧
      exec .rdDigest1 s = .fault (.unreachableUState s.ustate) ∧
      exec .rdDigest2 s = .fault (.unreachableUState s.ustate) ∧
      exec .rdDigest3 s = .fault (.unreachableUState s.ustate) ∧
      (∀ w, exec (.wrCmd w) s = .fault (.unreachableUState s.ustate)) ∧
      exec .nop s = .fault (.unreachableUState s.ustate) ∧ exec .init s = .fault (.unreachableUState s.ustate) ∧
      (∀ nb, exec (.absorb nb) s = .fault (.unreachableUState s.ustate)) ∧
      exec .final s = .fault (.unreachableUState s.ustate) ∧ exec .clrerr s = .fault (.unreachableUState s.ustate)) ∧
    (s.ret = 3#2 → exec .cmpAcc s = .fault (.unreachableRet s.ret)) ∧
    (s.ustate.toNat ≤ 9 → 64 < s.fill.toNat → exec .rdStatus s = .fault (.unreachableFill s.fill)) ∧
    (63 < s.fill.toNat →
      exec .pad80 s = .fault (.unreachableFill s.fill) ∧ exec .padZero s = .fault (.unreachableFill s.fill)) ∧
    (63 < s.fill.toNat → 1 ≤ s.pcnt.toNat → s.pcnt.toNat ≤ 4 →
      exec .absByte s = .fault (.unreachableFill s.fill)) ∧
    (s.pcnt = 0#3 ∨ 4 < s.pcnt.toNat → exec .absByte s = .fault (.unreachablePcnt s.pcnt)) ∧
    (s.ret = Ret.abs → 4 < s.pcnt.toNat → exec .cmpAcc s = .fault (.unreachablePcnt s.pcnt))

/-- R20-R22, R24-R29, R33, R34: which instructions can write each piece of state. -/
def Obligations.EachFieldHasItsWriters : Prop :=
  ∀ (i : Instr) (s t : State), exec i s = .next t →
    (t.saved ≠ s.saved → i = .cmpLoad) ∧
    (t.buf ≠ s.buf → i = .absByte ∨ i = .pad80 ∨ i = .padZero ∨ i = .padLen) ∧
    (t.reg ≠ s.reg → i = .init ∨ i = .cmpAcc ∨ (∃ w, i = .wrCmd w) ∨
      ∃ j, i = .stepF j ∨ i = .stepG j ∨ i = .stepH j ∨ i = .stepI j) ∧
    (t.fill ≠ s.fill → i = .init ∨ (∃ w, i = .wrCmd w) ∨ i = .absByte ∨ i = .pad80 ∨ i = .padZero ∨ i = .padLen ∨
      i = .cmpAcc) ∧
    (t.pcnt ≠ s.pcnt → i = .init ∨ (∃ nb, i = .absorb nb) ∨ (∃ w, i = .wrCmd w) ∨ i = .absByte) ∧
    (t.ustate ≠ s.ustate → i = .init ∨ (∃ nb, i = .absorb nb) ∨ i = .final ∨ (∃ w, i = .wrCmd w) ∨ i = .cmpLoad ∨
      (∃ j, i = .stepI j) ∨ i = .cmpAcc ∨ i = .absByte ∨ i = .pad80 ∨ i = .padZero ∨ i = .padLen) ∧
    (t.stepCtr ≠ s.stepCtr → i = .cmpLoad ∨ ∃ j, i = .stepF j ∨ i = .stepG j ∨ i = .stepH j ∨ i = .stepI j) ∧
    (t.ret ≠ s.ret → i = .absByte ∨ i = .pad80 ∨ i = .padZero ∨ i = .padLen) ∧
    (t.mcnt ≠ s.mcnt → i = .init ∨ (∃ nb, i = .absorb nb) ∨ ∃ w, i = .wrCmd w) ∧
    (t.pend ≠ s.pend → i = .absByte ∨ (∃ nb, i = .absorb nb) ∨ ∃ w, i = .wrCmd w) ∧
    (t.din ≠ s.din → ∃ w, i = .wrDin w) ∧
    ((t.errOvf, t.errCmd, t.errBusy) ≠ (s.errOvf, s.errCmd, s.errBusy) →
      i = .nop ∨ i = .init ∨ (∃ nb, i = .absorb nb) ∨ i = .final ∨ i = .clrerr ∨ ∃ w, i = .wrCmd w) ∧
    (t.rdata ≠ s.rdata → i = .rdStatus ∨ i = .rdDin ∨ i = .rdLenLo ∨ i = .rdLenHi ∨ i = .rdDigest0 ∨
      i = .rdDigest1 ∨ i = .rdDigest2 ∨ i = .rdDigest3) ∧
    t.agenda = s.agenda

/-- R216: the order of the checks, one flag at most per access, and none by a micro-step. -/
def Obligations.OneAccessReportsOneError : Prop :=
  ∀ (s t : State) (a : Access),
    (a.isLegal = false → runAccess a s = .fault (.busError a.off)) ∧
    (a.isLegal = true → a.write = true → a.off = 0x00#6 →
      (s.busy = true → runAccess a s = .next { s with errBusy := true }) ∧
      (s.idle = true → a.data ∉ legalCommandWords → runAccess a s = .next { s with errCmd := true }) ∧
      (s.idle = true → s.ustate ≠ UState.ready → a.data.toNat % 16 = 2 ∨ a.data.toNat % 16 = 3 →
        runAccess a s = .next { s with errCmd := true }) ∧
      (s.ustate = UState.ready → a.data ∈ legalCommandWords → a.data.toNat % 16 = 2 →
        2 ^ 61 - 1 < s.mcnt.toNat + (a.data.toNat / 16 + 1) →
        runAccess a s = .next { s with errOvf := true, ustate := UState.error })) ∧
    (runAccess a s = .next t →
      (t.errOvf && !s.errOvf).toNat + (t.errCmd && !s.errCmd).toNat + (t.errBusy && !s.errBusy).toNat ≤ 1) ∧
    (runMicro s = .next t → t.errOvf = s.errOvf ∧ t.errCmd = s.errCmd ∧ t.errBusy = s.errBusy)

/-- R203: in U_DONE, whatever comes but reset and INIT, the state stays U_DONE and A..D stay. -/
def Obligations.DigestIsImmutable : Prop :=
  ∀ (evs : List Event) (s t : State), s.ustate = UState.done → (∀ e ∈ evs, e.isRestart = false) →
    runEvents evs s = .next t → t.ustate = UState.done ∧ t.reg = s.reg

/-- R215, R218: U_ERROR is left only by INIT or reset, its DIGEST registers read 0, and ERR_OVF stays. -/
def Obligations.ErrorIsLeftOnlyByInitOrReset : Prop :=
  ∀ (evs : List Event) (s t : State), s.ustate = UState.error → s.errOvf = true → (∀ e ∈ evs, e.isRestart = false) →
    runEvents evs s = .next t → t.ustate = UState.error ∧ t.errOvf = true ∧ t.mcnt = s.mcnt ∧
      exec .rdDigest0 t = .next { t with rdata := 0#32 } ∧ exec .rdDigest1 t = .next { t with rdata := 0#32 } ∧
      exec .rdDigest2 t = .next { t with rdata := 0#32 } ∧ exec .rdDigest3 t = .next { t with rdata := 0#32 }

/-! ### Runs -/

/-- R184, R175: from U_CMP_LOAD, 66 micro-steps compute `compress` of the chaining value and the block, leave BUF alone
and go where RET says. -/
def Obligations.SixtySixMicroStepsCompress : Prop :=
  ∀ s : State, s.ustate = UState.cmpLoad →
    s.ret = Ret.done ∨ s.ret = Ret.pad ∨ (s.ret = Ret.abs ∧ s.pcnt.toNat ≤ 4) →
    (∀ n, n < 66 → ∃ u, microTurns n s = .next u ∧ UState.isCompress u.ustate = true) ∧
    ∃ t, microTurns 66 s = .next t ∧ t.reg = compress s.reg (bufWords s.buf) ∧
      t = { s with
        reg := t.reg, saved := s.reg, fill := 0#7, stepCtr := 0#6
        ustate := if s.ret = Ret.done then UState.done else if s.ret = Ret.pad then UState.padZero
          else if s.pcnt = 0#3 then UState.ready else UState.absByte }

/-- R134: an accepted ABSORB, run until BUSY = 0, is `absorb_byte` of its bytes one at a time. -/
def Obligations.AbsorbToCompletion : Prop :=
  ∀ (s : State) (nb : Nat), s.ustate = UState.ready → s.fill.toNat ≤ 63 → 1 ≤ nb → nb ≤ 4 →
    s.mcnt.toNat + nb ≤ 2 ^ 61 - 1 →
    ∃ t, andThen (exec (.absorb nb) s) (settle microStepBound) = .next t ∧
      t.ustate = UState.ready ∧ t.mcnt.toNat = s.mcnt.toNat + nb ∧
      BlockState.mk t.reg t.buf t.fill.toNat =
        absorbBytes ⟨s.reg, s.buf, s.fill.toNat⟩ ((List.range nb).map fun i => byteOf i s.din) ∧
      (t.errOvf, t.errCmd, t.errBusy, t.din, t.rdata, t.agenda) =
        (s.errOvf, s.errCmd, s.errBusy, s.din, s.rdata, s.agenda)

/-- R135: an accepted FINAL, run until BUSY = 0: 0x80, K zero bytes, the length field and the last compression; one
block if FILL is at most 55, else two. -/
def Obligations.FinalToCompletion : Prop :=
  ∀ s : State, s.ustate = UState.ready → s.fill.toNat = s.mcnt.toNat % 64 →
    let n := s.mcnt.toNat
    let f := s.fill.toNat
    let p := absorbBytes ⟨s.reg, s.buf, f⟩ (0x80#8 :: List.replicate (padZeros n) 0x00#8)
    p.fill = 56 ∧
    (f ≤ 55 → p.reg = s.reg) ∧
    (56 ≤ f → p.reg = compress s.reg
      (bufWords ((s.buf.write f 0x80#8).writeBytes (f + 1) (List.replicate (63 - f) 0x00#8)))) ∧
    ∃ t, andThen (exec .final s) (settle microStepBound) = .next t ∧ t.ustate = UState.done ∧
      t.buf = p.buf.writeBytes 56 (bitLengthBytes n) ∧ t.reg = compress p.reg (bufWords t.buf) ∧
      (t.mcnt, t.errOvf, t.errCmd, t.errBusy, t.din, t.rdata, t.agenda) =
        (s.mcnt, s.errOvf, s.errCmd, s.errBusy, s.din, s.rdata, s.agenda)

/-- R136: the whole computation, from an accepted INIT and from reset, for every split of the message into beats of 1 to 4
bytes: the engine ends in U_DONE with no error, and DIGEST0..3 serialize to `digest(M)`. -/
def Obligations.WholeComputationIsTheDigest : Prop :=
  ∀ (beats : List (List Byte)) (s : State), s.buf.wf → (∀ b ∈ beats, 1 ≤ b.length ∧ b.length ≤ 4) →
    beats.flatten.length ≤ 2 ^ 61 - 1 →
    let good := fun t : State =>
      t.successful ∧ t.mcnt.toNat = beats.flatten.length ∧
      ∃ w : Nat → Word,
        hostReadAt 0x20#6 t = .next { t with rdata := w 0 } ∧ hostReadAt 0x24#6 t = .next { t with rdata := w 1 } ∧
        hostReadAt 0x28#6 t = .next { t with rdata := w 2 } ∧ hostReadAt 0x2C#6 t = .next { t with rdata := w 3 } ∧
        wordBytes (w 0) ++ wordBytes (w 1) ++ wordBytes (w 2) ++ wordBytes (w 3) = digest beats.flatten
    (s.idle = true → ∃ t, hashBeats beats s = .next t ∧ good t) ∧
    (∃ t, andThen (sendBeats beats (resetEngine s)) (sendCommand 0x00000003#32) = .next t ∧ good t)

/-- R251: the micro-step counts per command. -/
def Obligations.MicroStepCounts : Prop :=
  ∀ s : State,
    (s.idle = true → ∀ i t, i = .nop ∨ i = .init ∨ i = .clrerr → exec i s = .next t → busyExactly 0 t) ∧
    (s.idle = true → ∀ w t, w ∉ legalCommandWords → exec (.wrCmd w) s = .next t → busyExactly 0 t) ∧
    (s.ustate = UState.done ∨ s.ustate = UState.error → ∀ nb t,
      exec (.absorb nb) s = .next t ∨ exec .final s = .next t → busyExactly 0 t) ∧
    (∀ nb, s.ustate = UState.ready → s.fill.toNat ≤ 63 → 1 ≤ nb → nb ≤ 4 → s.mcnt.toNat + nb ≤ 2 ^ 61 - 1 →
      ∃ t, exec (.absorb nb) s = .next t ∧
        busyExactly (if s.fill.toNat + nb < 64 then nb else nb + 66) t) ∧
    (∀ nb, s.ustate = UState.ready → 2 ^ 61 - 1 < s.mcnt.toNat + nb →
      ∃ t, exec (.absorb nb) s = .next t ∧ busyExactly 0 t) ∧
    (s.ustate = UState.ready → s.fill.toNat = s.mcnt.toNat % 64 →
      ∃ t, exec .final s = .next t ∧
        busyExactly (if s.mcnt.toNat % 64 ≤ 55 then 123 - s.mcnt.toNat % 64 else 253 - s.mcnt.toNat % 64) t)

/-- 70_reset_and_hazards.md section 4 (R253): from every state that meets the invariant, BUSY = 0 within 197 micro-steps,
none of which stops. -/
def Obligations.BusyEndsWithinTheBound : Prop :=
  ∀ s : State, Inv s → ∃ n, n ≤ 197 ∧ busyExactly n s

/-- R9, R204, R244, R247: whatever engine turns, reads and writes of DIN come first, and in whatever order, the engine
settles to the same state. -/
def Obligations.ScheduleDoesNotChangeTheResult : Prop :=
  ∀ (s : State) (evs : List Event), Inv s → (∀ e ∈ evs, e.isQuiet = true) →
    ∃ u t t', runEvents evs s = .next u ∧ settle microStepBound s = .next t ∧ settle microStepBound u = .next t' ∧
      t.idle = true ∧ t'.engineView = t.engineView

/-- R241, R41: the values reset leaves unspecified (AA..DD, BUF, PEND, STEP, RET; logs 3-7) are never observable: two
engines at the start of a message that differ in them alone answer every sequence of events alike. -/
def Obligations.UnspecifiedResetValuesAreNeverObservable : Prop :=
  ∀ (s t : State) (evs : List Event), SameSpecified s t → s.buf.wf → t.buf.wf →
    s.ustate = UState.ready → s.fill = 0#7 → s.pcnt = 0#3 →
    (∀ u, runEvents evs s = .next u → ∃ v, runEvents evs t = .next v ∧ SameSpecified u v) ∧
    (∀ r, runEvents evs s = .fault r → runEvents evs t = .fault r)

/-! ### Completion and known answers -/

/-- R121, with R122-R128: a write of CMD completes in every micro-state, whatever the word, and this is what it leaves. -/
def Obligations.CommandWriteCompletes : Prop :=
  ∀ s : State,
    (s.busy = true ∨ s.idle = true → ∀ w : Word, ∃ t, exec (.wrCmd w) s = .next t) ∧
    (s.busy = true → ∀ w : Word, exec (.wrCmd w) s = .next { s with errBusy := true }) ∧
    (s.idle = true →
      exec (.wrCmd 0x00000000#32) s = .next s ∧
      exec (.wrCmd 0x00000001#32) s = .next { s with
        reg := ⟨0x67452301#32, 0xEFCDAB89#32, 0x98BADCFE#32, 0x10325476#32⟩
        fill := 0#7, mcnt := 0#61, pcnt := 0#3
        errOvf := false, errCmd := false, errBusy := false
        ustate := UState.ready } ∧
      exec (.wrCmd 0x00000004#32) s = .next { s with errCmd := false, errBusy := false } ∧
      (∀ w : Word, w ∉ legalCommandWords → exec (.wrCmd w) s = .next { s with errCmd := true }) ∧
      (∀ w : Word, s.ustate ≠ UState.ready → w ∈ legalCommandWords → w.toNat % 16 = 2 ∨ w.toNat % 16 = 3 →
        exec (.wrCmd w) s = .next { s with errCmd := true })) ∧
    (s.ustate = UState.ready →
      exec (.wrCmd 0x00000003#32) s = .next { s with ustate := UState.pad80 } ∧
      ∀ w : Word, w ∈ legalCommandWords → w.toNat % 16 = 2 →
        (s.mcnt.toNat + (w.toNat / 16 + 1) ≤ 2 ^ 61 - 1 → exec (.wrCmd w) s = .next { s with
          mcnt := BitVec.ofNat 61 (s.mcnt.toNat + (w.toNat / 16 + 1)), pend := s.din
          pcnt := BitVec.ofNat 3 (w.toNat / 16 + 1), ustate := UState.absByte }) ∧
        (2 ^ 61 - 1 < s.mcnt.toNat + (w.toNat / 16 + 1) → exec (.wrCmd w) s = .next { s with
          errOvf := true, ustate := UState.error }))

/-- 95_test_vectors.md section 1: the known answers for the empty message, "a" and "abc". -/
def Obligations.DigestKnownAnswers : Prop :=
  digest [] =
    [0xD4#8, 0x1D#8, 0x8C#8, 0xD9#8, 0x8F#8, 0x00#8, 0xB2#8, 0x04#8,
      0xE9#8, 0x80#8, 0x09#8, 0x98#8, 0xEC#8, 0xF8#8, 0x42#8, 0x7E#8] ∧
  digest [0x61#8] =
    [0x0C#8, 0xC1#8, 0x75#8, 0xB9#8, 0xC0#8, 0xF1#8, 0xB6#8, 0xA8#8,
      0x31#8, 0xC3#8, 0x99#8, 0xE2#8, 0x69#8, 0x77#8, 0x26#8, 0x61#8] ∧
  digest [0x61#8, 0x62#8, 0x63#8] =
    [0x90#8, 0x01#8, 0x50#8, 0x98#8, 0x3C#8, 0xD2#8, 0x4F#8, 0xB0#8,
      0xD6#8, 0x96#8, 0x3F#8, 0x7D#8, 0x28#8, 0xE1#8, 0x7F#8, 0x72#8]
end

