-- ==== Sys2Proof/Laws/Memory.lean ====
section
/-! SUPPORT. The block buffer: a read after a write, and the canonical form kept by every write. -/

namespace Sys2Proof.Machine

@[simp] theorem Memory.read_nil (i : Nat) : Memory.read [] i = unlistedByte := rfl

theorem Memory.read_cons (c : Host.Cell) (m : Memory) (i : Nat) :
    Memory.read (c :: m) i = if i = c.1 then c.2 else Memory.read m i := by
  obtain ⟨j, b⟩ := c
  by_cases h : i = j
  · simp [Memory.read, List.lookup, h]
  · have hb : (i == j) = false := by simp [h]
    simp [Memory.read, List.lookup, h, hb]

theorem Memory.wf_nil : Memory.wf [] := by simp [Memory.wf]

/-- An index below every listed one is not listed. -/
theorem Memory.read_below {m : Memory} {i : Nat} (h : ∀ c ∈ m, i < c.1) : Memory.read m i = unlistedByte := by
  induction m with
  | nil => rfl
  | cons c m ih =>
    have hc : i < c.1 := h c (by simp)
    rw [Memory.read_cons, if_neg (by omega)]
    exact ih fun d hd => h d (by simp [hd])

theorem Memory.wf_tail {c : Host.Cell} {m : Memory} (h : Memory.wf (c :: m)) : Memory.wf m :=
  ⟨(List.pairwise_cons.1 h.1).2, fun d hd => h.2 d (by simp [hd])⟩

/-- A write is read back. -/
theorem Memory.read_write_same {m : Memory} (h : m.wf) (i : Nat) (b : Byte) : (m.write i b).read i = b := by
  induction m with
  | nil => by_cases hb : b = unlistedByte <;> simp [Memory.write, hb, Memory.read_cons]
  | cons c m ih =>
    obtain ⟨j, d⟩ := c
    have hlow : ∀ e ∈ m, j < e.1 := (List.pairwise_cons.1 h.1).1
    have below : i ≤ j → Memory.read m i = unlistedByte := fun hij =>
      Memory.read_below fun e he => by have := hlow e he; omega
    by_cases h1 : i < j
    · by_cases hb : b = unlistedByte
      · simp [Memory.write, h1, hb, Memory.read_cons, below h1.le, show i ≠ j by omega]
      · simp [Memory.write, h1, hb, Memory.read_cons]
    · by_cases h2 : i = j
      · by_cases hb : b = unlistedByte
        · subst h2; simp [Memory.write, hb, below]
        · simp [Memory.write, h2, hb, Memory.read_cons]
      · simp [Memory.write, h1, h2, Memory.read_cons, ih (Memory.wf_tail h)]

/-- A write leaves every other index alone. -/
theorem Memory.read_write_other (m : Memory) {i k : Nat} (b : Byte) (hk : k ≠ i) :
    (m.write i b).read k = m.read k := by
  induction m with
  | nil => by_cases hb : b = unlistedByte <;> simp [Memory.write, hb, Memory.read_cons, hk]
  | cons c m ih =>
    obtain ⟨j, d⟩ := c
    by_cases h1 : i < j
    · by_cases hb : b = unlistedByte <;> simp [Memory.write, h1, hb, Memory.read_cons, hk]
    · by_cases h2 : i = j
      · subst h2; by_cases hb : b = unlistedByte <;> simp [Memory.write, hb, Memory.read_cons, hk]
      · simp [Memory.write, h1, h2, Memory.read_cons, ih]

/-- An entry after a write is the written one or was there before. -/
theorem Memory.mem_write {m : Memory} {i : Nat} {b : Byte} {c : Host.Cell} (hc : c ∈ m.write i b) :
    (c = (i, b) ∧ b ≠ unlistedByte) ∨ c ∈ m := by
  induction m with
  | nil =>
    by_cases hb : b = unlistedByte
    · simp [Memory.write, hb] at hc
    · simp [Memory.write, hb] at hc; exact .inl ⟨hc, hb⟩
  | cons d m ih =>
    obtain ⟨j, e⟩ := d
    by_cases h1 : i < j
    · by_cases hb : b = unlistedByte
      · right; simpa [Memory.write, h1, hb] using hc
      · simp only [Memory.write, h1, hb, if_true, if_false] at hc
        rcases List.mem_cons.1 hc with h | h
        · exact .inl ⟨h, hb⟩
        · exact .inr h
    · by_cases h2 : i = j
      · by_cases hb : b = unlistedByte
        · right; simp [Memory.write, h2, hb] at hc; simp [hc]
        · simp only [Memory.write, h2, hb, if_true, if_false, lt_irrefl] at hc
          rcases List.mem_cons.1 hc with h | h
          · exact .inl ⟨by rw [h, h2], hb⟩
          · exact .inr (by simp [h])
      · simp only [Memory.write, h1, h2, if_false] at hc
        rcases List.mem_cons.1 hc with h | h
        · exact .inr (by simp [h])
        · rcases ih h with h' | h'
          · exact .inl h'
          · exact .inr (by simp [h'])

/-- A write inside BUF keeps the canonical form. -/
theorem Memory.wf_write {m : Memory} (h : m.wf) {i : Nat} (hi : i < bufBytes) (b : Byte) : (m.write i b).wf := by
  refine ⟨?_, fun c hc => ?_⟩
  · induction m with
    | nil => by_cases hb : b = unlistedByte <;> simp [Memory.write, hb]
    | cons d m ih =>
      obtain ⟨j, e⟩ := d
      have hp := List.pairwise_cons.1 h.1
      by_cases h1 : i < j
      · by_cases hb : b = unlistedByte
        · simpa [Memory.write, h1, hb] using h.1
        · simp only [Memory.write, h1, hb, if_true, if_false]
          refine List.pairwise_cons.2 ⟨fun c hc => ?_, h.1⟩
          rcases List.mem_cons.1 hc with hc | hc
          · simpa [hc] using h1
          · have := hp.1 c hc; simp only at this ⊢; omega
      · by_cases h2 : i = j
        · subst h2
          by_cases hb : b = unlistedByte
          · simpa [Memory.write, hb] using hp.2
          · simpa [Memory.write, hb] using hp
        · simp only [Memory.write, h1, h2, if_false]
          refine List.pairwise_cons.2 ⟨fun c hc => ?_, ih (Memory.wf_tail h)⟩
          rcases Memory.mem_write hc with hc | hc
          · rw [hc.1]; simp only; omega
          · exact hp.1 c hc
  · rcases Memory.mem_write hc with hc | hc
    · rw [hc.1]; exact ⟨hc.2, hi⟩
    · exact h.2 c hc

/-- Several bytes inside BUF keep the canonical form. -/
theorem Memory.wf_writeBytes {m : Memory} (h : m.wf) {i : Nat} {bs : List Byte} (hi : i + bs.length ≤ bufBytes) :
    (m.writeBytes i bs).wf := by
  induction bs generalizing m i with
  | nil => exact h
  | cons b bs ih =>
    simp only [List.length_cons] at hi
    exact ih (Memory.wf_write h (by omega) b) (by omega)

/-- Indices outside the written bytes are left alone. -/
theorem Memory.read_writeBytes_outside (m : Memory) {i k : Nat} (bs : List Byte) (hk : k < i ∨ i + bs.length ≤ k) :
    (m.writeBytes i bs).read k = m.read k := by
  induction bs generalizing m i with
  | nil => rfl
  | cons b bs ih =>
    simp only [List.length_cons] at hk
    rw [Memory.writeBytes, ih _ (by omega), Memory.read_write_other _ _ (by omega)]

/-- The written bytes are read back. -/
theorem Memory.read_writeBytes_inside {m : Memory} (h : m.wf) {i : Nat} (bs : List Byte)
    (hi : i + bs.length ≤ bufBytes) {n : Nat} (hn : n < bs.length) :
    (m.writeBytes i bs).read (i + n) = bs[n] := by
  induction bs generalizing m i n with
  | nil => simp at hn
  | cons b bs ih =>
    simp only [List.length_cons] at hi hn
    have hw := Memory.wf_write h (i := i) (by omega) b
    cases n with
    | zero =>
      rw [Memory.writeBytes, Memory.read_writeBytes_outside _ _ (by omega)]
      simpa using Memory.read_write_same h i b
    | succ n =>
      rw [Memory.writeBytes, show i + (n + 1) = (i + 1) + n by omega, ih hw (by omega) (by omega)]
      rfl

@[simp] theorem lengthField_length (n : BitVec 61) : (lengthField n).length = 8 := by simp [lengthField]

end Sys2Proof.Machine
end

