-- ==== Sys2Proof/Laws/State.lean ====
section
/-! SUPPORT. One lemma per field per field update of `State`. -/

namespace Sys2Proof.Machine

section
variable (s : State) (v : Quad)

@[simp] theorem State.withReg_reg : (s.withReg v).reg = v := rfl
@[simp] theorem State.withReg_saved : (s.withReg v).saved = s.saved := rfl
@[simp] theorem State.withReg_buf : (s.withReg v).buf = s.buf := rfl
@[simp] theorem State.withReg_fill : (s.withReg v).fill = s.fill := rfl
@[simp] theorem State.withReg_mcnt : (s.withReg v).mcnt = s.mcnt := rfl
@[simp] theorem State.withReg_pend : (s.withReg v).pend = s.pend := rfl
@[simp] theorem State.withReg_pcnt : (s.withReg v).pcnt = s.pcnt := rfl
@[simp] theorem State.withReg_stepCtr : (s.withReg v).stepCtr = s.stepCtr := rfl
@[simp] theorem State.withReg_ustate : (s.withReg v).ustate = s.ustate := rfl
@[simp] theorem State.withReg_ret : (s.withReg v).ret = s.ret := rfl
@[simp] theorem State.withReg_errOvf : (s.withReg v).errOvf = s.errOvf := rfl
@[simp] theorem State.withReg_errCmd : (s.withReg v).errCmd = s.errCmd := rfl
@[simp] theorem State.withReg_errBusy : (s.withReg v).errBusy = s.errBusy := rfl
@[simp] theorem State.withReg_din : (s.withReg v).din = s.din := rfl
@[simp] theorem State.withReg_rdata : (s.withReg v).rdata = s.rdata := rfl
@[simp] theorem State.withReg_agenda : (s.withReg v).agenda = s.agenda := rfl

end

section
variable (s : State) (v : Quad)

@[simp] theorem State.withSaved_reg : (s.withSaved v).reg = s.reg := rfl
@[simp] theorem State.withSaved_saved : (s.withSaved v).saved = v := rfl
@[simp] theorem State.withSaved_buf : (s.withSaved v).buf = s.buf := rfl
@[simp] theorem State.withSaved_fill : (s.withSaved v).fill = s.fill := rfl
@[simp] theorem State.withSaved_mcnt : (s.withSaved v).mcnt = s.mcnt := rfl
@[simp] theorem State.withSaved_pend : (s.withSaved v).pend = s.pend := rfl
@[simp] theorem State.withSaved_pcnt : (s.withSaved v).pcnt = s.pcnt := rfl
@[simp] theorem State.withSaved_stepCtr : (s.withSaved v).stepCtr = s.stepCtr := rfl
@[simp] theorem State.withSaved_ustate : (s.withSaved v).ustate = s.ustate := rfl
@[simp] theorem State.withSaved_ret : (s.withSaved v).ret = s.ret := rfl
@[simp] theorem State.withSaved_errOvf : (s.withSaved v).errOvf = s.errOvf := rfl
@[simp] theorem State.withSaved_errCmd : (s.withSaved v).errCmd = s.errCmd := rfl
@[simp] theorem State.withSaved_errBusy : (s.withSaved v).errBusy = s.errBusy := rfl
@[simp] theorem State.withSaved_din : (s.withSaved v).din = s.din := rfl
@[simp] theorem State.withSaved_rdata : (s.withSaved v).rdata = s.rdata := rfl
@[simp] theorem State.withSaved_agenda : (s.withSaved v).agenda = s.agenda := rfl

end

section
variable (s : State) (v : Memory)

@[simp] theorem State.withBuf_reg : (s.withBuf v).reg = s.reg := rfl
@[simp] theorem State.withBuf_saved : (s.withBuf v).saved = s.saved := rfl
@[simp] theorem State.withBuf_buf : (s.withBuf v).buf = v := rfl
@[simp] theorem State.withBuf_fill : (s.withBuf v).fill = s.fill := rfl
@[simp] theorem State.withBuf_mcnt : (s.withBuf v).mcnt = s.mcnt := rfl
@[simp] theorem State.withBuf_pend : (s.withBuf v).pend = s.pend := rfl
@[simp] theorem State.withBuf_pcnt : (s.withBuf v).pcnt = s.pcnt := rfl
@[simp] theorem State.withBuf_stepCtr : (s.withBuf v).stepCtr = s.stepCtr := rfl
@[simp] theorem State.withBuf_ustate : (s.withBuf v).ustate = s.ustate := rfl
@[simp] theorem State.withBuf_ret : (s.withBuf v).ret = s.ret := rfl
@[simp] theorem State.withBuf_errOvf : (s.withBuf v).errOvf = s.errOvf := rfl
@[simp] theorem State.withBuf_errCmd : (s.withBuf v).errCmd = s.errCmd := rfl
@[simp] theorem State.withBuf_errBusy : (s.withBuf v).errBusy = s.errBusy := rfl
@[simp] theorem State.withBuf_din : (s.withBuf v).din = s.din := rfl
@[simp] theorem State.withBuf_rdata : (s.withBuf v).rdata = s.rdata := rfl
@[simp] theorem State.withBuf_agenda : (s.withBuf v).agenda = s.agenda := rfl

end

section
variable (s : State) (v : BitVec 7)

@[simp] theorem State.withFill_reg : (s.withFill v).reg = s.reg := rfl
@[simp] theorem State.withFill_saved : (s.withFill v).saved = s.saved := rfl
@[simp] theorem State.withFill_buf : (s.withFill v).buf = s.buf := rfl
@[simp] theorem State.withFill_fill : (s.withFill v).fill = v := rfl
@[simp] theorem State.withFill_mcnt : (s.withFill v).mcnt = s.mcnt := rfl
@[simp] theorem State.withFill_pend : (s.withFill v).pend = s.pend := rfl
@[simp] theorem State.withFill_pcnt : (s.withFill v).pcnt = s.pcnt := rfl
@[simp] theorem State.withFill_stepCtr : (s.withFill v).stepCtr = s.stepCtr := rfl
@[simp] theorem State.withFill_ustate : (s.withFill v).ustate = s.ustate := rfl
@[simp] theorem State.withFill_ret : (s.withFill v).ret = s.ret := rfl
@[simp] theorem State.withFill_errOvf : (s.withFill v).errOvf = s.errOvf := rfl
@[simp] theorem State.withFill_errCmd : (s.withFill v).errCmd = s.errCmd := rfl
@[simp] theorem State.withFill_errBusy : (s.withFill v).errBusy = s.errBusy := rfl
@[simp] theorem State.withFill_din : (s.withFill v).din = s.din := rfl
@[simp] theorem State.withFill_rdata : (s.withFill v).rdata = s.rdata := rfl
@[simp] theorem State.withFill_agenda : (s.withFill v).agenda = s.agenda := rfl

end

section
variable (s : State) (v : BitVec 61)

@[simp] theorem State.withMcnt_reg : (s.withMcnt v).reg = s.reg := rfl
@[simp] theorem State.withMcnt_saved : (s.withMcnt v).saved = s.saved := rfl
@[simp] theorem State.withMcnt_buf : (s.withMcnt v).buf = s.buf := rfl
@[simp] theorem State.withMcnt_fill : (s.withMcnt v).fill = s.fill := rfl
@[simp] theorem State.withMcnt_mcnt : (s.withMcnt v).mcnt = v := rfl
@[simp] theorem State.withMcnt_pend : (s.withMcnt v).pend = s.pend := rfl
@[simp] theorem State.withMcnt_pcnt : (s.withMcnt v).pcnt = s.pcnt := rfl
@[simp] theorem State.withMcnt_stepCtr : (s.withMcnt v).stepCtr = s.stepCtr := rfl
@[simp] theorem State.withMcnt_ustate : (s.withMcnt v).ustate = s.ustate := rfl
@[simp] theorem State.withMcnt_ret : (s.withMcnt v).ret = s.ret := rfl
@[simp] theorem State.withMcnt_errOvf : (s.withMcnt v).errOvf = s.errOvf := rfl
@[simp] theorem State.withMcnt_errCmd : (s.withMcnt v).errCmd = s.errCmd := rfl
@[simp] theorem State.withMcnt_errBusy : (s.withMcnt v).errBusy = s.errBusy := rfl
@[simp] theorem State.withMcnt_din : (s.withMcnt v).din = s.din := rfl
@[simp] theorem State.withMcnt_rdata : (s.withMcnt v).rdata = s.rdata := rfl
@[simp] theorem State.withMcnt_agenda : (s.withMcnt v).agenda = s.agenda := rfl

end

section
variable (s : State) (v : Word) (c : BitVec 3)

@[simp] theorem State.withBeat_reg : (s.withBeat v c).reg = s.reg := rfl
@[simp] theorem State.withBeat_saved : (s.withBeat v c).saved = s.saved := rfl
@[simp] theorem State.withBeat_buf : (s.withBeat v c).buf = s.buf := rfl
@[simp] theorem State.withBeat_fill : (s.withBeat v c).fill = s.fill := rfl
@[simp] theorem State.withBeat_mcnt : (s.withBeat v c).mcnt = s.mcnt := rfl
@[simp] theorem State.withBeat_pend : (s.withBeat v c).pend = v := rfl
@[simp] theorem State.withBeat_pcnt : (s.withBeat v c).pcnt = c := rfl
@[simp] theorem State.withBeat_stepCtr : (s.withBeat v c).stepCtr = s.stepCtr := rfl
@[simp] theorem State.withBeat_ustate : (s.withBeat v c).ustate = s.ustate := rfl
@[simp] theorem State.withBeat_ret : (s.withBeat v c).ret = s.ret := rfl
@[simp] theorem State.withBeat_errOvf : (s.withBeat v c).errOvf = s.errOvf := rfl
@[simp] theorem State.withBeat_errCmd : (s.withBeat v c).errCmd = s.errCmd := rfl
@[simp] theorem State.withBeat_errBusy : (s.withBeat v c).errBusy = s.errBusy := rfl
@[simp] theorem State.withBeat_din : (s.withBeat v c).din = s.din := rfl
@[simp] theorem State.withBeat_rdata : (s.withBeat v c).rdata = s.rdata := rfl
@[simp] theorem State.withBeat_agenda : (s.withBeat v c).agenda = s.agenda := rfl

end

section
variable (s : State) (v : BitVec 6)

@[simp] theorem State.withStepCtr_reg : (s.withStepCtr v).reg = s.reg := rfl
@[simp] theorem State.withStepCtr_saved : (s.withStepCtr v).saved = s.saved := rfl
@[simp] theorem State.withStepCtr_buf : (s.withStepCtr v).buf = s.buf := rfl
@[simp] theorem State.withStepCtr_fill : (s.withStepCtr v).fill = s.fill := rfl
@[simp] theorem State.withStepCtr_mcnt : (s.withStepCtr v).mcnt = s.mcnt := rfl
@[simp] theorem State.withStepCtr_pend : (s.withStepCtr v).pend = s.pend := rfl
@[simp] theorem State.withStepCtr_pcnt : (s.withStepCtr v).pcnt = s.pcnt := rfl
@[simp] theorem State.withStepCtr_stepCtr : (s.withStepCtr v).stepCtr = v := rfl
@[simp] theorem State.withStepCtr_ustate : (s.withStepCtr v).ustate = s.ustate := rfl
@[simp] theorem State.withStepCtr_ret : (s.withStepCtr v).ret = s.ret := rfl
@[simp] theorem State.withStepCtr_errOvf : (s.withStepCtr v).errOvf = s.errOvf := rfl
@[simp] theorem State.withStepCtr_errCmd : (s.withStepCtr v).errCmd = s.errCmd := rfl
@[simp] theorem State.withStepCtr_errBusy : (s.withStepCtr v).errBusy = s.errBusy := rfl
@[simp] theorem State.withStepCtr_din : (s.withStepCtr v).din = s.din := rfl
@[simp] theorem State.withStepCtr_rdata : (s.withStepCtr v).rdata = s.rdata := rfl
@[simp] theorem State.withStepCtr_agenda : (s.withStepCtr v).agenda = s.agenda := rfl

end

section
variable (s : State) (v : BitVec 4)

@[simp] theorem State.withUstate_reg : (s.withUstate v).reg = s.reg := rfl
@[simp] theorem State.withUstate_saved : (s.withUstate v).saved = s.saved := rfl
@[simp] theorem State.withUstate_buf : (s.withUstate v).buf = s.buf := rfl
@[simp] theorem State.withUstate_fill : (s.withUstate v).fill = s.fill := rfl
@[simp] theorem State.withUstate_mcnt : (s.withUstate v).mcnt = s.mcnt := rfl
@[simp] theorem State.withUstate_pend : (s.withUstate v).pend = s.pend := rfl
@[simp] theorem State.withUstate_pcnt : (s.withUstate v).pcnt = s.pcnt := rfl
@[simp] theorem State.withUstate_stepCtr : (s.withUstate v).stepCtr = s.stepCtr := rfl
@[simp] theorem State.withUstate_ustate : (s.withUstate v).ustate = v := rfl
@[simp] theorem State.withUstate_ret : (s.withUstate v).ret = s.ret := rfl
@[simp] theorem State.withUstate_errOvf : (s.withUstate v).errOvf = s.errOvf := rfl
@[simp] theorem State.withUstate_errCmd : (s.withUstate v).errCmd = s.errCmd := rfl
@[simp] theorem State.withUstate_errBusy : (s.withUstate v).errBusy = s.errBusy := rfl
@[simp] theorem State.withUstate_din : (s.withUstate v).din = s.din := rfl
@[simp] theorem State.withUstate_rdata : (s.withUstate v).rdata = s.rdata := rfl
@[simp] theorem State.withUstate_agenda : (s.withUstate v).agenda = s.agenda := rfl

end

section
variable (s : State) (v : BitVec 2)

@[simp] theorem State.withRet_reg : (s.withRet v).reg = s.reg := rfl
@[simp] theorem State.withRet_saved : (s.withRet v).saved = s.saved := rfl
@[simp] theorem State.withRet_buf : (s.withRet v).buf = s.buf := rfl
@[simp] theorem State.withRet_fill : (s.withRet v).fill = s.fill := rfl
@[simp] theorem State.withRet_mcnt : (s.withRet v).mcnt = s.mcnt := rfl
@[simp] theorem State.withRet_pend : (s.withRet v).pend = s.pend := rfl
@[simp] theorem State.withRet_pcnt : (s.withRet v).pcnt = s.pcnt := rfl
@[simp] theorem State.withRet_stepCtr : (s.withRet v).stepCtr = s.stepCtr := rfl
@[simp] theorem State.withRet_ustate : (s.withRet v).ustate = s.ustate := rfl
@[simp] theorem State.withRet_ret : (s.withRet v).ret = v := rfl
@[simp] theorem State.withRet_errOvf : (s.withRet v).errOvf = s.errOvf := rfl
@[simp] theorem State.withRet_errCmd : (s.withRet v).errCmd = s.errCmd := rfl
@[simp] theorem State.withRet_errBusy : (s.withRet v).errBusy = s.errBusy := rfl
@[simp] theorem State.withRet_din : (s.withRet v).din = s.din := rfl
@[simp] theorem State.withRet_rdata : (s.withRet v).rdata = s.rdata := rfl
@[simp] theorem State.withRet_agenda : (s.withRet v).agenda = s.agenda := rfl

end

section
variable (s : State) (v : Bool)

@[simp] theorem State.withErrOvf_reg : (s.withErrOvf v).reg = s.reg := rfl
@[simp] theorem State.withErrOvf_saved : (s.withErrOvf v).saved = s.saved := rfl
@[simp] theorem State.withErrOvf_buf : (s.withErrOvf v).buf = s.buf := rfl
@[simp] theorem State.withErrOvf_fill : (s.withErrOvf v).fill = s.fill := rfl
@[simp] theorem State.withErrOvf_mcnt : (s.withErrOvf v).mcnt = s.mcnt := rfl
@[simp] theorem State.withErrOvf_pend : (s.withErrOvf v).pend = s.pend := rfl
@[simp] theorem State.withErrOvf_pcnt : (s.withErrOvf v).pcnt = s.pcnt := rfl
@[simp] theorem State.withErrOvf_stepCtr : (s.withErrOvf v).stepCtr = s.stepCtr := rfl
@[simp] theorem State.withErrOvf_ustate : (s.withErrOvf v).ustate = s.ustate := rfl
@[simp] theorem State.withErrOvf_ret : (s.withErrOvf v).ret = s.ret := rfl
@[simp] theorem State.withErrOvf_errOvf : (s.withErrOvf v).errOvf = v := rfl
@[simp] theorem State.withErrOvf_errCmd : (s.withErrOvf v).errCmd = s.errCmd := rfl
@[simp] theorem State.withErrOvf_errBusy : (s.withErrOvf v).errBusy = s.errBusy := rfl
@[simp] theorem State.withErrOvf_din : (s.withErrOvf v).din = s.din := rfl
@[simp] theorem State.withErrOvf_rdata : (s.withErrOvf v).rdata = s.rdata := rfl
@[simp] theorem State.withErrOvf_agenda : (s.withErrOvf v).agenda = s.agenda := rfl

end

section
variable (s : State) (v : Bool)

@[simp] theorem State.withErrCmd_reg : (s.withErrCmd v).reg = s.reg := rfl
@[simp] theorem State.withErrCmd_saved : (s.withErrCmd v).saved = s.saved := rfl
@[simp] theorem State.withErrCmd_buf : (s.withErrCmd v).buf = s.buf := rfl
@[simp] theorem State.withErrCmd_fill : (s.withErrCmd v).fill = s.fill := rfl
@[simp] theorem State.withErrCmd_mcnt : (s.withErrCmd v).mcnt = s.mcnt := rfl
@[simp] theorem State.withErrCmd_pend : (s.withErrCmd v).pend = s.pend := rfl
@[simp] theorem State.withErrCmd_pcnt : (s.withErrCmd v).pcnt = s.pcnt := rfl
@[simp] theorem State.withErrCmd_stepCtr : (s.withErrCmd v).stepCtr = s.stepCtr := rfl
@[simp] theorem State.withErrCmd_ustate : (s.withErrCmd v).ustate = s.ustate := rfl
@[simp] theorem State.withErrCmd_ret : (s.withErrCmd v).ret = s.ret := rfl
@[simp] theorem State.withErrCmd_errOvf : (s.withErrCmd v).errOvf = s.errOvf := rfl
@[simp] theorem State.withErrCmd_errCmd : (s.withErrCmd v).errCmd = v := rfl
@[simp] theorem State.withErrCmd_errBusy : (s.withErrCmd v).errBusy = s.errBusy := rfl
@[simp] theorem State.withErrCmd_din : (s.withErrCmd v).din = s.din := rfl
@[simp] theorem State.withErrCmd_rdata : (s.withErrCmd v).rdata = s.rdata := rfl
@[simp] theorem State.withErrCmd_agenda : (s.withErrCmd v).agenda = s.agenda := rfl

end

section
variable (s : State) (v : Bool)

@[simp] theorem State.withErrBusy_reg : (s.withErrBusy v).reg = s.reg := rfl
@[simp] theorem State.withErrBusy_saved : (s.withErrBusy v).saved = s.saved := rfl
@[simp] theorem State.withErrBusy_buf : (s.withErrBusy v).buf = s.buf := rfl
@[simp] theorem State.withErrBusy_fill : (s.withErrBusy v).fill = s.fill := rfl
@[simp] theorem State.withErrBusy_mcnt : (s.withErrBusy v).mcnt = s.mcnt := rfl
@[simp] theorem State.withErrBusy_pend : (s.withErrBusy v).pend = s.pend := rfl
@[simp] theorem State.withErrBusy_pcnt : (s.withErrBusy v).pcnt = s.pcnt := rfl
@[simp] theorem State.withErrBusy_stepCtr : (s.withErrBusy v).stepCtr = s.stepCtr := rfl
@[simp] theorem State.withErrBusy_ustate : (s.withErrBusy v).ustate = s.ustate := rfl
@[simp] theorem State.withErrBusy_ret : (s.withErrBusy v).ret = s.ret := rfl
@[simp] theorem State.withErrBusy_errOvf : (s.withErrBusy v).errOvf = s.errOvf := rfl
@[simp] theorem State.withErrBusy_errCmd : (s.withErrBusy v).errCmd = s.errCmd := rfl
@[simp] theorem State.withErrBusy_errBusy : (s.withErrBusy v).errBusy = v := rfl
@[simp] theorem State.withErrBusy_din : (s.withErrBusy v).din = s.din := rfl
@[simp] theorem State.withErrBusy_rdata : (s.withErrBusy v).rdata = s.rdata := rfl
@[simp] theorem State.withErrBusy_agenda : (s.withErrBusy v).agenda = s.agenda := rfl

end

section
variable (s : State) (v : Word)

@[simp] theorem State.withDin_reg : (s.withDin v).reg = s.reg := rfl
@[simp] theorem State.withDin_saved : (s.withDin v).saved = s.saved := rfl
@[simp] theorem State.withDin_buf : (s.withDin v).buf = s.buf := rfl
@[simp] theorem State.withDin_fill : (s.withDin v).fill = s.fill := rfl
@[simp] theorem State.withDin_mcnt : (s.withDin v).mcnt = s.mcnt := rfl
@[simp] theorem State.withDin_pend : (s.withDin v).pend = s.pend := rfl
@[simp] theorem State.withDin_pcnt : (s.withDin v).pcnt = s.pcnt := rfl
@[simp] theorem State.withDin_stepCtr : (s.withDin v).stepCtr = s.stepCtr := rfl
@[simp] theorem State.withDin_ustate : (s.withDin v).ustate = s.ustate := rfl
@[simp] theorem State.withDin_ret : (s.withDin v).ret = s.ret := rfl
@[simp] theorem State.withDin_errOvf : (s.withDin v).errOvf = s.errOvf := rfl
@[simp] theorem State.withDin_errCmd : (s.withDin v).errCmd = s.errCmd := rfl
@[simp] theorem State.withDin_errBusy : (s.withDin v).errBusy = s.errBusy := rfl
@[simp] theorem State.withDin_din : (s.withDin v).din = v := rfl
@[simp] theorem State.withDin_rdata : (s.withDin v).rdata = s.rdata := rfl
@[simp] theorem State.withDin_agenda : (s.withDin v).agenda = s.agenda := rfl

end

section
variable (s : State) (v : Word)

@[simp] theorem State.withRdata_reg : (s.withRdata v).reg = s.reg := rfl
@[simp] theorem State.withRdata_saved : (s.withRdata v).saved = s.saved := rfl
@[simp] theorem State.withRdata_buf : (s.withRdata v).buf = s.buf := rfl
@[simp] theorem State.withRdata_fill : (s.withRdata v).fill = s.fill := rfl
@[simp] theorem State.withRdata_mcnt : (s.withRdata v).mcnt = s.mcnt := rfl
@[simp] theorem State.withRdata_pend : (s.withRdata v).pend = s.pend := rfl
@[simp] theorem State.withRdata_pcnt : (s.withRdata v).pcnt = s.pcnt := rfl
@[simp] theorem State.withRdata_stepCtr : (s.withRdata v).stepCtr = s.stepCtr := rfl
@[simp] theorem State.withRdata_ustate : (s.withRdata v).ustate = s.ustate := rfl
@[simp] theorem State.withRdata_ret : (s.withRdata v).ret = s.ret := rfl
@[simp] theorem State.withRdata_errOvf : (s.withRdata v).errOvf = s.errOvf := rfl
@[simp] theorem State.withRdata_errCmd : (s.withRdata v).errCmd = s.errCmd := rfl
@[simp] theorem State.withRdata_errBusy : (s.withRdata v).errBusy = s.errBusy := rfl
@[simp] theorem State.withRdata_din : (s.withRdata v).din = s.din := rfl
@[simp] theorem State.withRdata_rdata : (s.withRdata v).rdata = v := rfl
@[simp] theorem State.withRdata_agenda : (s.withRdata v).agenda = s.agenda := rfl

end

section
variable (s : State) (v : List Event)

@[simp] theorem State.withAgenda_reg : (s.withAgenda v).reg = s.reg := rfl
@[simp] theorem State.withAgenda_saved : (s.withAgenda v).saved = s.saved := rfl
@[simp] theorem State.withAgenda_buf : (s.withAgenda v).buf = s.buf := rfl
@[simp] theorem State.withAgenda_fill : (s.withAgenda v).fill = s.fill := rfl
@[simp] theorem State.withAgenda_mcnt : (s.withAgenda v).mcnt = s.mcnt := rfl
@[simp] theorem State.withAgenda_pend : (s.withAgenda v).pend = s.pend := rfl
@[simp] theorem State.withAgenda_pcnt : (s.withAgenda v).pcnt = s.pcnt := rfl
@[simp] theorem State.withAgenda_stepCtr : (s.withAgenda v).stepCtr = s.stepCtr := rfl
@[simp] theorem State.withAgenda_ustate : (s.withAgenda v).ustate = s.ustate := rfl
@[simp] theorem State.withAgenda_ret : (s.withAgenda v).ret = s.ret := rfl
@[simp] theorem State.withAgenda_errOvf : (s.withAgenda v).errOvf = s.errOvf := rfl
@[simp] theorem State.withAgenda_errCmd : (s.withAgenda v).errCmd = s.errCmd := rfl
@[simp] theorem State.withAgenda_errBusy : (s.withAgenda v).errBusy = s.errBusy := rfl
@[simp] theorem State.withAgenda_din : (s.withAgenda v).din = s.din := rfl
@[simp] theorem State.withAgenda_rdata : (s.withAgenda v).rdata = s.rdata := rfl
@[simp] theorem State.withAgenda_agenda : (s.withAgenda v).agenda = v := rfl

end

end Sys2Proof.Machine
end

