-- ==== Sys2Proof/Laws/Ops.lean ====
section
/-! SUPPORT. What the shared operations do, each said once: as one record update, or as the list of its cases. -/

namespace Sys2Proof.Machine

/-! ### USTATE -/

theorem UState.isBusy_iff (u : BitVec 4) : UState.isBusy u = true ↔ 1 ≤ u.toNat ∧ u.toNat ≤ 7 := by
  revert u; decide

theorem UState.isIdle_iff (u : BitVec 4) :
    UState.isIdle u = true ↔ u = UState.ready ∨ u = UState.done ∨ u = UState.error := by
  revert u; decide

/-- BUSY = 0 in a waiting micro-state. -/
theorem UState.not_busy_of_idle {u : BitVec 4} (h : UState.isIdle u = true) : UState.isBusy u = false := by
  revert u; decide

/-- Exactly the ten micro-states are busy or waiting. -/
theorem UState.legal_iff (u : BitVec 4) : (UState.isBusy u = true ∨ UState.isIdle u = true) ↔ u.toNat ≤ 9 := by
  revert u; decide

/-- Exactly the ten micro-states have a PHASE. -/
theorem UState.phase_isSome (u : BitVec 4) : (UState.phase u).isSome = true ↔ u.toNat ≤ 9 := by
  revert u; decide

theorem State.not_busy_of_idle {s : State} (h : s.idle = true) : s.busy = false := UState.not_busy_of_idle h

theorem State.idle_of_ready {s : State} (h : s.ustate = UState.ready) : s.idle = true := by
  simp only [State.idle, h]; decide

theorem State.idle_of_done {s : State} (h : s.ustate = UState.done) : s.idle = true := by
  simp only [State.idle, h]; decide

theorem State.idle_of_error {s : State} (h : s.ustate = UState.error) : s.idle = true := by
  simp only [State.idle, h]; decide

/-! ### Errors, INIT, reset -/

theorem enterError_busy (s : State) : enterError .busy s = { s with errBusy := true } := rfl

theorem enterError_cmd (s : State) : enterError .cmd s = { s with errCmd := true } := rfl

theorem enterError_ovf (s : State) : enterError .ovf s = { s with errOvf := true, ustate := UState.error } := rfl

theorem clearCommandErrors_eq (s : State) :
    clearCommandErrors s = { s with errCmd := false, errBusy := false } := rfl

theorem startMessage_eq (s : State) :
    startMessage s = { s with
      reg := iv, fill := 0#7, mcnt := 0#61, pcnt := 0#3, errOvf := false, errCmd := false, errBusy := false
      ustate := UState.ready } := rfl

theorem resetEngine_eq (s : State) :
    resetEngine s = { State.reset with rdata := s.rdata, agenda := s.agenda } := rfl

/-! ### Presenting a command -/

section
variable {f : State → Host.Outcome State Fault Refusal} {s t : State}

/-- While busy the command is dropped, whatever it is. -/
theorem presentCommand_busy (h : s.busy = true) : presentCommand f s = .next { s with errBusy := true } := by
  simp [presentCommand, h, enterError_busy]

/-- While waiting it takes its effect. -/
theorem presentCommand_idle (h : s.idle = true) : presentCommand f s = f s := by
  simp [presentCommand, State.not_busy_of_idle h, h]

/-- Everything presenting a command can do. -/
theorem presentCommand_next (h : presentCommand f s = .next t) :
    (s.busy = true ∧ t = { s with errBusy := true }) ∨ (s.idle = true ∧ f s = .next t) := by
  unfold presentCommand at h
  by_cases hb : s.busy = true
  · left; simpa [hb, enterError_busy, eq_comm] using h
  · by_cases hi : s.idle = true
    · right; simpa [hb, hi] using h
    · simp [hb, hi] at h

end

theorem hostRead_eq (w : Word) (s : State) : hostRead w s = .next { s with rdata := w } := rfl

/-! ### Padder and sequencer -/

theorem putByte_eq (b : Byte) (s : State) :
    putByte b s = { s with buf := s.buf.write s.fill.toNat b, fill := s.fill + 1#7 } := rfl

theorem startCompression_eq (r : BitVec 2) (s : State) :
    startCompression r s = { s with ret := r, ustate := UState.cmpLoad } := rfl

theorem stepAdvance_last (s : State) : stepAdvance 63#6 s = { s with stepCtr := 0#6, ustate := UState.cmpAcc } := rfl

theorem stepAdvance_more {k : BitVec 6} (h : k ≠ 63#6) (s : State) :
    stepAdvance k s = { s with stepCtr := k + 1#6 } := by simp [stepAdvance, h, State.withStepCtr]

/-- FILL + 1 in 7 bits does not wrap while BUF[FILL] exists. -/
theorem fill_succ_toNat {f : BitVec 7} (h : f.toNat ≤ 63) : (f + 1#7).toNat = f.toNat + 1 := by
  rw [BitVec.toNat_add]; simp; omega

theorem fill_succ_eq_iff {f : BitVec 7} (h : f.toNat ≤ 63) (n : Nat) (hn : n < 128) :
    f + 1#7 = BitVec.ofNat 7 n ↔ f.toNat + 1 = n := by
  rw [← BitVec.toNat_inj, fill_succ_toNat h]; simp; omega

/-! ### Bytes and words -/

/-- `byte_i(le32(b0, b1, b2, b3)) = b_i` (R10, R65). -/
theorem byteOf_le32 (b0 b1 b2 b3 : Byte) :
    byteOf 0 (le32 b0 b1 b2 b3) = b0 ∧ byteOf 1 (le32 b0 b1 b2 b3) = b1 ∧ byteOf 2 (le32 b0 b1 b2 b3) = b2 ∧
      byteOf 3 (le32 b0 b1 b2 b3) = b3 := by
  refine ⟨?_, ?_, ?_, ?_⟩ <;>
    (ext i hi; simp [byteOf, le32, hi]; interval_cases i <;> simp)

/-- The low byte of a word shifted down by a byte is its next byte. -/
theorem byteOf_shiftRight (w : Word) (i : Nat) : byteOf i (w >>> 8) = byteOf (i + 1) w := by
  ext j hj
  simp only [byteOf, BitVec.getElem_extractLsb', BitVec.getLsbD_ushiftRight]
  congr 1; omega

/-! ### Registers -/

@[simp] theorem Quad.get_set_same (q : Quad) (n : RegName) (w : Word) : (q.set n w).get n = w := by
  cases n <;> rfl

theorem Quad.get_set_other (q : Quad) {n m : RegName} (w : Word) (h : m ≠ n) : (q.set n w).get m = q.get m := by
  cases n <;> cases m <;> first | rfl | exact absurd rfl h

end Sys2Proof.Machine
end

