-- ==== Sys2Proof/Laws/Exec.lean ====
section
/-! SUPPORT. Each instruction's arm, what the meanings and the agents' turns can do, and the loops of Machine/Driver.lean. -/

namespace Sys2Proof.Machine

/-! ### exec, arm by arm -/

section
variable (s : State)

@[simp] theorem exec_nop : exec .nop s = presentCommand acceptNop s := rfl
@[simp] theorem exec_init : exec .init s = presentCommand acceptInit s := rfl
@[simp] theorem exec_absorb (nb : Nat) : exec (.absorb nb) s = presentCommand (acceptAbsorb nb) s := rfl
@[simp] theorem exec_final : exec .final s = presentCommand acceptFinal s := rfl
@[simp] theorem exec_clrerr : exec .clrerr s = presentCommand acceptClrerr s := rfl
@[simp] theorem exec_wrCmd (w : Word) : exec (.wrCmd w) s = presentCommand (decodeAndExecute w) s := rfl
@[simp] theorem exec_rdStatus : exec .rdStatus s = execRdStatus s := rfl
@[simp] theorem exec_wrDin (w : Word) : exec (.wrDin w) s = .next { s with din := w } := rfl
@[simp] theorem exec_rdDin : exec .rdDin s = .next { s with rdata := s.din } := rfl
@[simp] theorem exec_rdLenLo : exec .rdLenLo s = .next { s with rdata := s.mcnt.extractLsb' 0 32 } := rfl
@[simp] theorem exec_rdLenHi :
    exec .rdLenHi s = .next { s with rdata := (s.mcnt.extractLsb' 32 29).setWidth 32 } := rfl
@[simp] theorem exec_rdDigest0 : exec .rdDigest0 s = readDigest .A s := rfl
@[simp] theorem exec_rdDigest1 : exec .rdDigest1 s = readDigest .B s := rfl
@[simp] theorem exec_rdDigest2 : exec .rdDigest2 s = readDigest .C s := rfl
@[simp] theorem exec_rdDigest3 : exec .rdDigest3 s = readDigest .D s := rfl
@[simp] theorem exec_absByte : exec .absByte s = execAbsByte s := rfl
@[simp] theorem exec_cmpLoad :
    exec .cmpLoad s = .next { s with saved := s.reg, stepCtr := 0#6, ustate := UState.cmpStep } := rfl
@[simp] theorem exec_stepF (j : BitVec 4) : exec (.stepF j) s = .next (roundOp mixF (0#2 ++ j) s) := rfl
@[simp] theorem exec_stepG (j : BitVec 4) : exec (.stepG j) s = .next (roundOp mixG (1#2 ++ j) s) := rfl
@[simp] theorem exec_stepH (j : BitVec 4) : exec (.stepH j) s = .next (roundOp mixH (2#2 ++ j) s) := rfl
@[simp] theorem exec_stepI (j : BitVec 4) : exec (.stepI j) s = .next (roundOp mixI (3#2 ++ j) s) := rfl
@[simp] theorem exec_cmpAcc : exec .cmpAcc s = execCmpAcc s := rfl
@[simp] theorem exec_pad80 : exec .pad80 s = padByte 0x80#8 s := rfl
@[simp] theorem exec_padZero : exec .padZero s = padByte 0x00#8 s := rfl
@[simp] theorem exec_padLen :
    exec .padLen s = .next { s with
      buf := s.buf.writeBytes 56 (lengthField s.mcnt), fill := 64#7, ret := Ret.done
      ustate := UState.cmpLoad } := rfl

end

/-! ### What a meaning can do -/

section
variable {s t : State}

theorem acceptAbsorb_next {nb : Nat} (h : acceptAbsorb nb s = .next t) :
    (s.ustate ≠ UState.ready ∧ t = { s with errCmd := true }) ∨
    (s.ustate = UState.ready ∧ maxMessageBytes < s.mcnt.toNat + nb ∧
      t = { s with errOvf := true, ustate := UState.error }) ∨
    (s.ustate = UState.ready ∧ s.mcnt.toNat + nb ≤ maxMessageBytes ∧
      t = { s with
        mcnt := s.mcnt + BitVec.ofNat 61 nb, pend := s.din, pcnt := BitVec.ofNat 3 nb
        ustate := UState.absByte }) := by
  unfold acceptAbsorb at h
  split at h
  · exact .inl ⟨‹_›, by simpa [enterError_cmd, eq_comm] using h⟩
  · split at h
    · exact .inr (.inl ⟨not_not.1 ‹_›, ‹_›, by simpa [enterError_ovf, eq_comm] using h⟩)
    · exact .inr (.inr ⟨not_not.1 ‹_›, Nat.le_of_not_lt ‹_›, (Host.Outcome.next.inj h).symm⟩)

theorem acceptFinal_next (h : acceptFinal s = .next t) :
    (s.ustate ≠ UState.ready ∧ t = { s with errCmd := true }) ∨
    (s.ustate = UState.ready ∧ t = { s with ustate := UState.pad80 }) := by
  unfold acceptFinal at h
  split at h
  · exact .inl ⟨‹_›, by simpa [enterError_cmd, eq_comm] using h⟩
  · exact .inr ⟨not_not.1 ‹_›, (Host.Outcome.next.inj h).symm⟩

/-- `decode_and_execute` is one of the accepted commands, or ERR_CMD. -/
theorem decodeAndExecute_cases (w : Word) (s : State) :
    (decodeAndExecute w s = acceptNop s ∧ decodeCmd w = .ok .nop) ∨
    (decodeAndExecute w s = acceptInit s ∧ decodeCmd w = .ok .init) ∨
    (∃ nb, decodeAndExecute w s = acceptAbsorb nb s ∧ decodeCmd w = .ok (.absorb nb)) ∨
    (decodeAndExecute w s = acceptFinal s ∧ decodeCmd w = .ok .final) ∨
    (decodeAndExecute w s = acceptClrerr s ∧ decodeCmd w = .ok .clrerr) ∨
    decodeAndExecute w s = .next { s with errCmd := true } := by
  unfold decodeAndExecute
  split
  · exact .inl ⟨rfl, ‹_›⟩
  · exact .inr (.inl ⟨rfl, ‹_›⟩)
  · exact .inr (.inr (.inl ⟨_, rfl, ‹_›⟩))
  · exact .inr (.inr (.inr (.inl ⟨rfl, ‹_›⟩)))
  · exact .inr (.inr (.inr (.inr (.inl ⟨rfl, ‹_›⟩))))
  · exact .inr (.inr (.inr (.inr (.inr rfl))))

theorem execAbsByte_next (h : execAbsByte s = .next t) :
    1 ≤ s.pcnt.toNat ∧ s.pcnt.toNat ≤ 4 ∧ s.fill.toNat ≤ 63 ∧
    ∃ u r, t = { s with
        buf := s.buf.write s.fill.toNat (byteOf 0 s.pend), fill := s.fill + 1#7, pend := s.pend >>> 8,
        pcnt := s.pcnt - 1#3, ret := r, ustate := u } ∧
      ((s.fill.toNat = 63 ∧ u = UState.cmpLoad ∧ r = Ret.abs) ∨
       (s.fill.toNat < 63 ∧ s.pcnt = 1#3 ∧ u = UState.ready ∧ r = s.ret) ∨
       (s.fill.toNat < 63 ∧ s.pcnt ≠ 1#3 ∧ u = UState.absByte ∧ r = s.ret)) := by
  unfold execAbsByte at h
  split at h
  · cases h
  split at h
  · cases h
  have hf : s.fill.toNat ≤ 63 := by omega
  refine ⟨by omega, by omega, hf, ?_⟩
  have h64 : s.fill + 1#7 = 64#7 ↔ s.fill.toNat + 1 = 64 := fill_succ_eq_iff hf 64 (by omega)
  have h1 : s.pcnt - 1#3 = 0#3 ↔ s.pcnt = 1#3 := by generalize s.pcnt = c; revert c; decide
  simp only [h64, h1] at h
  split at h
  · exact ⟨_, _, (Host.Outcome.next.inj h).symm, .inl ⟨by omega, rfl, rfl⟩⟩
  · split at h
    · exact ⟨_, _, (Host.Outcome.next.inj h).symm, .inr (.inl ⟨by omega, ‹_›, rfl, rfl⟩)⟩
    · exact ⟨_, _, (Host.Outcome.next.inj h).symm, .inr (.inr ⟨by omega, ‹_›, rfl, rfl⟩)⟩

theorem padByte_next {b : Byte} (h : padByte b s = .next t) :
    s.fill.toNat ≤ 63 ∧
    ∃ u r, t = { s with buf := s.buf.write s.fill.toNat b, fill := s.fill + 1#7, ret := r, ustate := u } ∧
      ((s.fill.toNat = 63 ∧ u = UState.cmpLoad ∧ r = Ret.pad) ∨
       (s.fill.toNat = 55 ∧ u = UState.padLen ∧ r = s.ret) ∨
       (s.fill.toNat < 63 ∧ s.fill.toNat ≠ 55 ∧ u = UState.padZero ∧ r = s.ret)) := by
  unfold padByte at h
  split at h
  · cases h
  have hf : s.fill.toNat ≤ 63 := by omega
  refine ⟨hf, ?_⟩
  have h64 : s.fill + 1#7 = 64#7 ↔ s.fill.toNat + 1 = 64 := fill_succ_eq_iff hf 64 (by omega)
  have h56 : s.fill + 1#7 = 56#7 ↔ s.fill.toNat + 1 = 56 := fill_succ_eq_iff hf 56 (by omega)
  simp only [h64, h56] at h
  split at h
  · exact ⟨_, _, (Host.Outcome.next.inj h).symm, .inl ⟨by omega, rfl, rfl⟩⟩
  · split at h
    · exact ⟨_, _, (Host.Outcome.next.inj h).symm, .inr (.inl ⟨by omega, rfl, rfl⟩)⟩
    · exact ⟨_, _, (Host.Outcome.next.inj h).symm, .inr (.inr ⟨by omega, by omega, rfl, rfl⟩)⟩

theorem execCmpAcc_next (h : execCmpAcc s = .next t) :
    ∃ u, t = { s with reg := s.reg.add s.saved, fill := 0#7, ustate := u } ∧
      ((s.ret = Ret.done ∧ u = UState.done) ∨ (s.ret = Ret.pad ∧ u = UState.padZero) ∨
       (s.ret = Ret.abs ∧ 1 ≤ s.pcnt.toNat ∧ s.pcnt.toNat ≤ 4 ∧ u = UState.absByte) ∨
       (s.ret = Ret.abs ∧ s.pcnt = 0#3 ∧ u = UState.ready)) := by
  unfold execCmpAcc at h
  split at h
  · exact ⟨_, (Host.Outcome.next.inj h).symm, .inl ⟨‹_›, rfl⟩⟩
  split at h
  · exact ⟨_, (Host.Outcome.next.inj h).symm, .inr (.inl ⟨‹_›, rfl⟩)⟩
  split at h
  · split at h
    · cases h
    split at h
    · exact ⟨_, (Host.Outcome.next.inj h).symm, .inr (.inr (.inl ⟨‹_›, by omega, by omega, rfl⟩))⟩
    · exact ⟨_, (Host.Outcome.next.inj h).symm,
        .inr (.inr (.inr ⟨‹_›, BitVec.eq_of_toNat_eq (by simp; omega), rfl⟩))⟩
  · cases h

/-- A DIGEST read returns the accumulator in U_DONE and 0 in the nine other micro-states. -/
theorem readDigest_next {n : RegName} (h : readDigest n s = .next t) :
    t = { s with rdata := if s.done then s.reg.get n else 0#32 } := by
  unfold readDigest at h
  split at h
  · simpa [hostRead_eq, *, eq_comm] using h
  · split at h
    · simpa [hostRead_eq, *, eq_comm] using h
    · cases h

theorem execRdStatus_next (h : execRdStatus s = .next t) :
    s.fill.toNat ≤ 64 ∧ ∃ p, UState.phase s.ustate = some p ∧ t = { s with rdata := statusWord p s } := by
  unfold execRdStatus at h
  split at h
  · cases h
  · split at h
    · cases h
    · exact ⟨by omega, _, ‹_›, (Host.Outcome.next.inj h).symm⟩

/-- What a step operation leaves: the accumulators, and STEP and USTATE by R182. -/
theorem roundOp_eq (f : Word → Word → Word → Word) (k : BitVec 6) (s : State) :
    roundOp f k s = { s with
      reg := roundQuad f k s.buf s.reg
      stepCtr := if k = 63#6 then 0#6 else k + 1#6
      ustate := if k = 63#6 then UState.cmpAcc else s.ustate } := by
  unfold roundOp stepAdvance
  split <;> rfl

/-! ### The agents -/

/-- An access that answers a next state is one of the ten, and runs its instruction. -/
theorem runAccess_next {a : Access} (h : runAccess a s = .next t) :
    a.size = 4 ∧ ∃ i, decodeBus a.pattern a.data = .ok i ∧ exec i s = .next t := by
  unfold runAccess at h
  split at h
  · cases h
  · split at h
    · exact ⟨by tauto, _, ‹_›, h⟩
    · cases h

@[simp] theorem uop_ustate (s : State) : s.uop.extractLsb' 6 4 = s.ustate := by
  ext i hi
  rw [BitVec.getElem_extractLsb', State.uop, uopWord, BitVec.getLsbD_append]
  simp [BitVec.getLsbD_eq_getElem, hi]

@[simp] theorem uop_step (s : State) : s.uop.extractLsb' 0 6 = s.stepCtr := by
  ext i hi
  rw [BitVec.getElem_extractLsb', State.uop, uopWord, BitVec.getLsbD_append]
  simp [BitVec.getLsbD_eq_getElem, hi]

@[simp] theorem uop_round (s : State) : s.uop.extractLsb' 4 2 = s.stepCtr.extractLsb' 4 2 := by
  ext i hi
  simp only [BitVec.getElem_extractLsb', State.uop, uopWord, BitVec.getLsbD_append]
  simp [show 4 + i < 6 by omega]

@[simp] theorem uop_position (s : State) : s.uop.extractLsb' 0 4 = s.stepCtr.extractLsb' 0 4 := by
  ext i hi
  simp only [BitVec.getElem_extractLsb', State.uop, uopWord, BitVec.getLsbD_append]
  simp [show i < 6 by omega]

/-! The micro-operation each USTATE selects (R95). -/

theorem runMicro_idle (h : s.idle = true) : runMicro s = .next s := by
  rcases (UState.isIdle_iff _).1 h with h | h | h <;> simp [runMicro, decodeUop, h, UState.isIdle]

theorem runMicro_absByte (h : s.ustate = UState.absByte) : runMicro s = execAbsByte s := by
  simp [runMicro, decodeUop, h]

theorem runMicro_cmpLoad (h : s.ustate = UState.cmpLoad) :
    runMicro s = .next { s with saved := s.reg, stepCtr := 0#6, ustate := UState.cmpStep } := by
  simp [runMicro, decodeUop, h]

theorem runMicro_cmpStep (h : s.ustate = UState.cmpStep) :
    runMicro s = .next (roundOp (mixOfRound (s.stepCtr.toNat / 16)) s.stepCtr s) := by
  simp only [runMicro, decodeUop, uop_ustate, uop_round, uop_position, h, stepInstr]
  generalize hk : s.stepCtr = k
  have key : ∀ k : BitVec 6,
      (k.extractLsb' 4 2 = 0#2 ∧ 0#2 ++ k.extractLsb' 0 4 = k ∧ k.toNat / 16 = 0) ∨
      (k.extractLsb' 4 2 = 1#2 ∧ 1#2 ++ k.extractLsb' 0 4 = k ∧ k.toNat / 16 = 1) ∨
      (k.extractLsb' 4 2 = 2#2 ∧ 2#2 ++ k.extractLsb' 0 4 = k ∧ k.toNat / 16 = 2) ∨
      (k.extractLsb' 4 2 = 3#2 ∧ 3#2 ++ k.extractLsb' 0 4 = k ∧ k.toNat / 16 = 3) := by decide
  rcases key k with ⟨h1, h2, h3⟩ | ⟨h1, h2, h3⟩ | ⟨h1, h2, h3⟩ | ⟨h1, h2, h3⟩ <;>
    simp [h1, h2, h3, mixOfRound]

theorem runMicro_cmpAcc (h : s.ustate = UState.cmpAcc) : runMicro s = execCmpAcc s := by
  simp [runMicro, decodeUop, h]

theorem runMicro_pad80 (h : s.ustate = UState.pad80) : runMicro s = padByte 0x80#8 s := by
  simp [runMicro, decodeUop, h]

theorem runMicro_padZero (h : s.ustate = UState.padZero) : runMicro s = padByte 0x00#8 s := by
  simp [runMicro, decodeUop, h]

theorem runMicro_padLen (h : s.ustate = UState.padLen) : runMicro s = execPadLen s := by
  simp [runMicro, decodeUop, h]; rfl

theorem runMicro_unreachable (h : 9 < s.ustate.toNat) : runMicro s = .fault (.unreachableUState s.ustate) := by
  have key : ∀ u : BitVec 4, 9 < u.toNat → u ≠ UState.absByte ∧ u ≠ UState.cmpLoad ∧ u ≠ UState.cmpStep ∧
      u ≠ UState.cmpAcc ∧ u ≠ UState.pad80 ∧ u ≠ UState.padZero ∧ u ≠ UState.padLen ∧ UState.isIdle u = false := by
    decide
  obtain ⟨h1, h2, h3, h4, h5, h6, h7, h8⟩ := key _ h
  simp only [runMicro, decodeUop, uop_ustate, if_neg h1, if_neg h2, if_neg h3, if_neg h4, if_neg h5, if_neg h6,
    if_neg h7, h8]
  simp

/-- A busy engine is in one of the seven micro-states with a micro-operation (R30). -/
theorem State.busy_cases (h : s.busy = true) :
    s.ustate = UState.absByte ∨ s.ustate = UState.cmpLoad ∨ s.ustate = UState.cmpStep ∨ s.ustate = UState.cmpAcc ∨
      s.ustate = UState.pad80 ∨ s.ustate = UState.padZero ∨ s.ustate = UState.padLen := by
  have key : ∀ u : BitVec 4, UState.isBusy u = true → u = UState.absByte ∨ u = UState.cmpLoad ∨ u = UState.cmpStep ∨
      u = UState.cmpAcc ∨ u = UState.pad80 ∨ u = UState.padZero ∨ u = UState.padLen := by decide
  exact key _ h

/-- The three kinds of step. -/
theorem step_nil (h : s.agenda = []) : step s = runMicro s := by simp [step, nextEvent, h, runEvent]

theorem step_cons {e : Event} {rest : List Event} (h : s.agenda = e :: rest) :
    step s = runEvent e { s with agenda := rest } := by
  simp [step, nextEvent, h, State.withAgenda]

/-! ### Sequences -/

@[simp] theorem andThen_next (s : State) (f : State → Host.Outcome State Fault Refusal) :
    andThen (.next s) f = f s := rfl

theorem andThen_eq_next {o : Host.Outcome State Fault Refusal} {f : State → Host.Outcome State Fault Refusal} :
    andThen o f = .next t ↔ ∃ u, o = .next u ∧ f u = .next t := by
  cases o <;> simp [andThen]

theorem andThen_assoc (o : Host.Outcome State Fault Refusal) (f g : State → Host.Outcome State Fault Refusal) :
    andThen (andThen o f) g = andThen o fun x => andThen (f x) g := by
  cases o <;> rfl

theorem runEvents_append (xs ys : List Event) (s : State) :
    runEvents (xs ++ ys) s = andThen (runEvents xs s) (runEvents ys) := by
  induction xs generalizing s with
  | nil => rfl
  | cons e es ih => simp only [List.cons_append, runEvents, andThen_assoc]; congr 1; funext u; exact ih u

theorem microTurns_succ (n : Nat) (s : State) : microTurns (n + 1) s = andThen (runMicro s) (microTurns n) := rfl

theorem microTurns_add (m n : Nat) (s : State) :
    microTurns (m + n) s = andThen (microTurns m s) (microTurns n) := by
  simp only [microTurns, List.replicate_add]; exact runEvents_append _ _ _

end

end Sys2Proof.Machine
end

