-- ==== Sys2Proof/Laws/PerInstr.lean ====
section
/-! SUPPORT. Laws per instruction, one lemma per constructor. Family `TableRow`: the encoder's word has the width, the
match and the mask of the instruction's row of spec/opcode_table.json. -/

namespace Sys2Proof.Laws.TableRow

/-- The encoding of a well-formed instruction lies in its opcode-table row. -/
def Statement (i : Instr) : Prop :=
  WellFormed i → (encode i).tableWord.1 = (tableRow i).width ∧
    (encode i).tableWord.2 &&& (tableRow i).maskBits = (tableRow i).matchBits

theorem nop : Statement .nop := fun _ => by decide
theorem init : Statement .init := fun _ => by decide
theorem absorb (nb : Nat) : Statement (.absorb nb) := fun h => by
  simp only [WellFormed, Instr.wellFormed, Bool.and_eq_true, decide_eq_true_eq] at h
  obtain ⟨h1, h2⟩ := h
  interval_cases nb <;> decide
theorem final : Statement .final := fun _ => by decide
theorem clrerr : Statement .clrerr := fun _ => by decide
theorem wrCmd (w : Word) : Statement (.wrCmd w) := fun _ =>
  ⟨rfl, (by decide : (1#1 ++ 0x00#6 : BitVec 7).toNat &&& 0x7F = 0x40)⟩
theorem rdStatus : Statement .rdStatus := fun _ => by decide
theorem wrDin (data : Word) : Statement (.wrDin data) := fun _ =>
  ⟨rfl, (by decide : (1#1 ++ 0x08#6 : BitVec 7).toNat &&& 0x7F = 0x48)⟩
theorem rdDin : Statement .rdDin := fun _ => by decide
theorem rdLenLo : Statement .rdLenLo := fun _ => by decide
theorem rdLenHi : Statement .rdLenHi := fun _ => by decide
theorem rdDigest0 : Statement .rdDigest0 := fun _ => by decide
theorem rdDigest1 : Statement .rdDigest1 := fun _ => by decide
theorem rdDigest2 : Statement .rdDigest2 := fun _ => by decide
theorem rdDigest3 : Statement .rdDigest3 := fun _ => by decide
theorem absByte : Statement .absByte := fun _ => by decide
theorem cmpLoad : Statement .cmpLoad := fun _ => by decide
theorem stepF (j : BitVec 4) : Statement (.stepF j) := fun _ => by revert j; decide
theorem stepG (j : BitVec 4) : Statement (.stepG j) := fun _ => by revert j; decide
theorem stepH (j : BitVec 4) : Statement (.stepH j) := fun _ => by revert j; decide
theorem stepI (j : BitVec 4) : Statement (.stepI j) := fun _ => by revert j; decide
theorem cmpAcc : Statement .cmpAcc := fun _ => by decide
theorem pad80 : Statement .pad80 := fun _ => by decide
theorem padZero : Statement .padZero := fun _ => by decide
theorem padLen : Statement .padLen := fun _ => by decide

end Sys2Proof.Laws.TableRow
end

