-- ==== Sys2Proof/Tests/Slice0.lean ====
section
/-! SUPPORT. Tests: the ill-formed terms, every row's word written out from the spec's encoding, one step on small states
with the values of spec/95_test_vectors.md and the rules' own examples, and a witness for each statement's hypotheses. -/

namespace Sys2Proof.Tests

open Sys2Proof Sys2Proof.Machine

/-! ### Well-formedness -/

theorem test_absorb_zero_is_ill_formed : ¬ WellFormed (.absorb 0) := by decide
theorem test_absorb_five_is_ill_formed : ¬ WellFormed (.absorb 5) := by decide
theorem test_absorb_one_and_four_are_well_formed : WellFormed (.absorb 1) ∧ WellFormed (.absorb 4) := by decide

/-! ### Decoding: the words of 30_encoding.md R92, R94, R95 -/

theorem test_decode_cmd_words :
    decodeTableWord 32 0b00000000000000000000000000000000 = some .nop ∧
    decodeTableWord 32 0b00000000000000000000000000000001 = some .init ∧
    decodeTableWord 32 0b00000000000000000000000000000010 = some (.absorb 1) ∧
    decodeTableWord 32 0b00000000000000000000000000110010 = some (.absorb 4) ∧
    decodeTableWord 32 0b00000000000000000000000000000011 = some .final ∧
    decodeTableWord 32 0b00000000000000000000000000000100 = some .clrerr := by decide

/-- R93: a reserved OP, NBM1 with OP 3, RSVD. -/
theorem test_decode_illegal_cmd_words :
    decodeTableWord 32 0x00000005 = none ∧ decodeTableWord 32 0x00000013 = none ∧
    decodeTableWord 32 0x40000001 = none := by decide

theorem test_decode_bus_words :
    decodeTableWord 8 0b1000000 = some (.wrCmd 0#32) ∧ decodeTableWord 8 0b0000100 = some .rdStatus ∧
    decodeTableWord 8 0b1001000 = some (.wrDin 0#32) ∧ decodeTableWord 8 0b0001000 = some .rdDin ∧
    decodeTableWord 8 0b0010000 = some .rdLenLo ∧ decodeTableWord 8 0b0010100 = some .rdLenHi ∧
    decodeTableWord 8 0b0100000 = some .rdDigest0 ∧ decodeTableWord 8 0b0100100 = some .rdDigest1 ∧
    decodeTableWord 8 0b0101000 = some .rdDigest2 ∧ decodeTableWord 8 0b0101100 = some .rdDigest3 ∧
    decodeTableWord 8 0b0000000 = none ∧ decodeTableWord 8 0b1000100 = none := by decide

theorem test_decode_uop_words :
    decodeTableWord 16 0b0001000000 = some .absByte ∧ decodeTableWord 16 0b0010111111 = some .cmpLoad ∧
    decodeTableWord 16 0b0011000101 = some (.stepF 5#4) ∧ decodeTableWord 16 0b0011010101 = some (.stepG 5#4) ∧
    decodeTableWord 16 0b0011101111 = some (.stepH 15#4) ∧ decodeTableWord 16 0b0011110000 = some (.stepI 0#4) ∧
    decodeTableWord 16 0b0100000001 = some .cmpAcc ∧ decodeTableWord 16 0b0101000000 = some .pad80 ∧
    decodeTableWord 16 0b0110000000 = some .padZero ∧ decodeTableWord 16 0b0111000000 = some .padLen ∧
    decodeTableWord 16 0b0000000000 = none ∧ decodeTableWord 16 0b1010000000 = none := by decide

/-- No two rows of one width overlap. -/
theorem test_rows_do_not_overlap :
    ([.nop, .init, .absorb 1, .final, .clrerr, .wrCmd 0#32, .rdStatus, .wrDin 0#32, .rdDin, .rdLenLo, .rdLenHi, .rdDigest0,
      .rdDigest1, .rdDigest2, .rdDigest3, .absByte, .cmpLoad, .stepF 0#4, .stepG 0#4, .stepH 0#4, .stepI 0#4, .cmpAcc,
      .pad80, .padZero, .padLen].map tableRow).Pairwise fun r q =>
        r.width ≠ q.width ∨ r.matchBits &&& q.maskBits ≠ q.matchBits &&& r.maskBits := by decide

/-! ### Small states -/

/-- A field of a next state. -/
def after {α : Type} (o : Host.Outcome State Fault Refusal) (f : State → α) : Option α :=
  match o with
  | .next t => some (f t)
  | .fault _ => none
  | .refused _ => none

/-- Whether an outcome is this fault. -/
def faultIs (o : Host.Outcome State Fault Refusal) (r : Fault) : Bool :=
  match o with
  | .next _ => false
  | .fault r' => decide (r = r')
  | .refused _ => false

/-- The "abc" block, padded (95 section 2.5). -/
def abcBlock : Memory := [(0, 0x61#8), (1, 0x62#8), (2, 0x63#8), (3, 0x80#8), (56, 0x18#8)]

/-- An engine in the middle of the "abc" block before operation k. -/
def abcStep (k : BitVec 6) (a b c d : Word) : State :=
  { State.reset with
    reg := ⟨a, b, c, d⟩, saved := iv, buf := abcBlock, fill := 64#7, mcnt := 3#61, stepCtr := k
    ustate := UState.cmpStep, ret := Ret.done }

/-- After "abc": U_DONE with the digest words (95 section 2.9). -/
def abcDone : State :=
  { State.reset with
    reg := ⟨0x98500190#32, 0xB04FD23C#32, 0x7D3F96D6#32, 0x727FE128#32⟩, buf := abcBlock, mcnt := 3#61
    ustate := UState.done, ret := Ret.done }

/-- A waiting engine one byte below the largest message (95 section 4, program 4). -/
def nearlyFull (n : Nat) : State := { State.reset with mcnt := BitVec.ofNat 61 (2 ^ 61 - n), fill := BitVec.ofNat 7 (64 - n) }

/-- U_ERROR with STATUS 0x00053F04 (95 section 2.7). -/
def overflowed : State := { nearlyFull 1 with errOvf := true, ustate := UState.error }

/-- An engine with one byte or more of a beat pending (R151's example). -/
def absorbing : State :=
  { State.reset with fill := 63#7, mcnt := 65#61, pend := 0x00006463#32, pcnt := 2#3, ustate := UState.absByte }

/-- A padder state with FILL = f. -/
def padding (u : BitVec 4) (f : BitVec 7) : State := { State.reset with fill := f, ustate := u }

/-! ### Commands -/

theorem test_nop_in_done : after (exec .nop abcDone) id = some abcDone := by decide

theorem test_init_leaves_error :
    after (exec .init overflowed) (fun t => (t.ustate, t.errOvf, t.mcnt, t.fill)) =
      some (UState.ready, false, 0#61, 0#7) := by decide

/-- R127's example. -/
theorem test_absorb_three :
    after (exec (.absorb 3) { State.reset with din := 0x00636261#32 }) (fun t => (t.mcnt, t.pend, t.pcnt, t.busy)) =
      some (3#61, 0x00636261#32, 3#3, true) := by decide

/-- R127: with MCNT = 2^61 - 1 any beat overflows; MCNT stays. -/
theorem test_absorb_overflow :
    after (exec (.absorb 1) (nearlyFull 1)) id = some overflowed := by decide

theorem test_final_starts_padding : after (exec .final State.reset) (fun t => t.ustate) = some UState.pad80 := by decide

theorem test_final_after_done :
    after (exec .final abcDone) (fun t => (t.errCmd, t.ustate, t.reg)) =
      some (true, UState.done, ⟨0x98500190#32, 0xB04FD23C#32, 0x7D3F96D6#32, 0x727FE128#32⟩) := by decide

theorem test_clrerr_keeps_overflow :
    after (exec .clrerr { overflowed with errCmd := true, errBusy := true })
      (fun t => (t.errOvf, t.errCmd, t.errBusy, t.ustate)) = some (true, false, false, UState.error) := by decide

/-- 95 section 2.7: FINAL with NBM1 = 1 is illegal and not executed. -/
theorem test_wrCmd_illegal :
    after (exec (.wrCmd 0x00000013#32) State.reset) (fun t => (t.errCmd, t.ustate)) =
      some (true, UState.ready) := by decide

/-- 95 section 2.7: even INIT is dropped while busy. -/
theorem test_wrCmd_busy :
    after (exec (.wrCmd 0x00000001#32) absorbing) (fun t => (t.errBusy, t.ustate, t.mcnt)) =
      some (true, UState.absByte, 65#61) := by decide

/-! ### Registers -/

theorem test_status_after_absorb_at_once :
    after (exec .rdStatus { State.reset with mcnt := 3#61, pcnt := 3#3, ustate := UState.absByte }) (fun t => t.rdata) =
      some 0x00010001#32 := by decide

theorem test_status_after_overflow : after (exec .rdStatus overflowed) (fun t => t.rdata) = some 0x00053F04#32 := by decide

theorem test_din_write : after (exec (.wrDin 0x64636261#32) absorbing) (fun t => (t.din, t.pend)) =
    some (0x64636261#32, 0x00006463#32) := by decide

theorem test_din_read : after (exec .rdDin { State.reset with din := 0x64636261#32 }) (fun t => t.rdata) =
    some 0x64636261#32 := by decide

/-- R133's example. -/
theorem test_len_of_the_largest_message :
    after (exec .rdLenLo (nearlyFull 1)) (fun t => t.rdata) = some 0xFFFFFFFF#32 ∧
    after (exec .rdLenHi (nearlyFull 1)) (fun t => t.rdata) = some 0x1FFFFFFF#32 := by decide

/-- R201's example, and 0 before DONE. -/
theorem test_digest_reads :
    after (exec .rdDigest0 abcDone) (fun t => t.rdata) = some 0x98500190#32 ∧
    after (exec .rdDigest1 abcDone) (fun t => t.rdata) = some 0xB04FD23C#32 ∧
    after (exec .rdDigest2 abcDone) (fun t => t.rdata) = some 0x7D3F96D6#32 ∧
    after (exec .rdDigest3 abcDone) (fun t => t.rdata) = some 0x727FE128#32 ∧
    after (exec .rdDigest0 State.reset) (fun t => t.rdata) = some 0#32 := by decide

/-! ### Padder -/

/-- R151's example. -/
theorem test_absByte_fills_the_block :
    after (exec .absByte absorbing) (fun t => (t.buf, t.pend, t.pcnt, t.fill, t.ustate)) =
      some ([(63, 0x63#8)], 0x00000064#32, 1#3, 64#7, UState.cmpLoad) := by decide

theorem test_absByte_ends_the_beat :
    after (exec .absByte { absorbing with fill := 2#7, pcnt := 1#3 }) (fun t => (t.buf, t.fill, t.pcnt, t.ustate)) =
      some ([(2, 0x63#8)], 3#7, 0#3, UState.ready) := by decide

theorem test_pad80_at_3 : after (exec .pad80 (padding UState.pad80 3#7)) (fun t => (t.buf, t.fill, t.ustate)) =
    some ([(3, 0x80#8)], 4#7, UState.padZero) := by decide

theorem test_pad80_at_55_and_63 :
    after (exec .pad80 (padding UState.pad80 55#7)) (fun t => t.ustate) = some UState.padLen ∧
    after (exec .pad80 (padding UState.pad80 63#7)) (fun t => (t.ustate, t.ret)) =
      some (UState.cmpLoad, Ret.pad) := by decide

theorem test_padZero_clears_its_byte :
    after (exec .padZero { padding UState.padZero 3#7 with buf := abcBlock }) (fun t => (t.buf, t.fill, t.ustate)) =
      some ([(0, 0x61#8), (1, 0x62#8), (2, 0x63#8), (56, 0x18#8)], 4#7, UState.padZero) := by decide

theorem test_padZero_at_55 : after (exec .padZero (padding UState.padZero 55#7)) (fun t => (t.fill, t.ustate)) =
    some (56#7, UState.padLen) := by decide

/-- 95 section 2.4. -/
theorem test_padLen :
    after (exec .padLen { padding UState.padLen 56#7 with mcnt := 0x12345678#61 }) (fun t => (t.buf, t.fill, t.ret)) =
      some ([(56, 0xC0#8), (57, 0xB3#8), (58, 0xA2#8), (59, 0x91#8)], 64#7, Ret.done) ∧
    after (exec .padLen { padding UState.padLen 56#7 with mcnt := BitVec.ofNat 61 (2 ^ 29) }) (fun t => t.buf) =
      some [(60, 0x01#8)] := by decide

/-! ### Compressor -/

theorem test_cmpLoad :
    after (exec .cmpLoad { abcStep 9#6 1#32 2#32 3#32 4#32 with ustate := UState.cmpLoad })
      (fun t => (t.saved, t.stepCtr, t.ustate)) = some (⟨1#32, 2#32, 3#32, 4#32⟩, 0#6, UState.cmpStep) := by decide

/-- 95 section 2.6, k = 0, and section 3, k = 1. -/
theorem test_stepF :
    after (exec (.stepF 0#4) (abcStep 0#6 0x67452301#32 0xEFCDAB89#32 0x98BADCFE#32 0x10325476#32)) (fun t => (t.reg, t.stepCtr)) =
      some (⟨0xD6D117B4#32, 0xEFCDAB89#32, 0x98BADCFE#32, 0x10325476#32⟩, 1#6) ∧
    after (exec (.stepF 1#4) (abcStep 1#6 0xD6D117B4#32 0xEFCDAB89#32 0x98BADCFE#32 0x10325476#32)) (fun t => (t.reg, t.stepCtr)) =
      some (⟨0xD6D117B4#32, 0xEFCDAB89#32, 0x98BADCFE#32, 0x344A8432#32⟩, 2#6) := by decide

/-- 95 section 2.6, k = 16. -/
theorem test_stepG :
    after (exec (.stepG 0#4) (abcStep 16#6 0xDDA9B9A6#32 0x72AFF2E0#32 0xE396856B#32 0xA1051895#32)) (fun t => (t.reg.a, t.stepCtr)) =
      some (0x3E9E9126#32, 17#6) := by decide

/-- 95 section 2.6, k = 32. -/
theorem test_stepH :
    after (exec (.stepH 0#4) (abcStep 32#6 0x790A77FB#32 0x726342D3#32 0xA62884AA#32 0x9F47E4F8#32)) (fun t => (t.reg.a, t.stepCtr)) =
      some (0xB3707EBF#32, 33#6) := by decide

/-- 95 section 2.6, k = 48. -/
theorem test_stepI :
    after (exec (.stepI 0#4) (abcStep 48#6 0x7F2E507B#32 0x7BEB9700#32 0x8FAE6399#32 0x99D9679D#32)) (fun t => (t.reg.a, t.stepCtr)) =
      some (0x7B201DF8#32, 49#6) := by decide

/-- R182: k = 63 ends the round logic. -/
theorem test_stepI_last :
    after (exec (.stepI 15#4) (abcStep 63#6 1#32 2#32 3#32 4#32)) (fun t => (t.stepCtr, t.ustate, t.reg.a)) =
      some (0#6, UState.cmpAcc, 1#32) := by decide

/-- R183's example. -/
theorem test_cmpAcc :
    after (exec .cmpAcc { abcStep 0#6 0x310ADE8F#32 0xC08226B3#32 0xE484B9D8#32 0x624D8CB2#32 with ustate := UState.cmpAcc })
      (fun t => (t.reg, t.fill, t.ustate)) =
      some (⟨0x98500190#32, 0xB04FD23C#32, 0x7D3F96D6#32, 0x727FE128#32⟩, 0#7, UState.done) := by decide

theorem test_cmpAcc_returns_to_the_beat :
    after (exec .cmpAcc { absorbing with fill := 64#7, ustate := UState.cmpAcc }) (fun t => (t.fill, t.ustate)) =
      some (0#7, UState.absByte) := by decide

/-! ### Operands (95 sections 2.1, 2.2, 2.5) -/

theorem test_mixing_functions :
    mixF 0xFF00FF00#32 0x0F0F0F0F#32 0x33333333#32 = 0x0F330F33#32 ∧
    mixG 0xFF00FF00#32 0x0F0F0F0F#32 0x33333333#32 = 0x3F0C3F0C#32 ∧
    mixH 0xFF00FF00#32 0x0F0F0F0F#32 0x33333333#32 = 0xC33CC33C#32 ∧
    mixI 0xFF00FF00#32 0x0F0F0F0F#32 0x33333333#32 = 0xF0C3F0C3#32 := by decide

theorem test_rotator : rotl32 0x12345678#32 23 = 0x3C091A2B#32 ∧ rotl32 0x0000FFFF#32 21 = 0xFFE0001F#32 := by decide

theorem test_word_view :
    wordView ((List.range 64).map fun i => (i, BitVec.ofNat 8 i)) 1#4 = 0x07060504#32 ∧
    wordView ((List.range 64).map fun i => (i, BitVec.ofNat 8 i)) 15#4 = 0x3F3E3D3C#32 := by decide

/-! ### Steps -/

/-- 95 section 2.8: illegal accesses. -/
theorem test_bus_errors :
    faultIs (runAccess ⟨false, 0x00#6, 4, 0#32⟩ State.reset) (.busError 0x00#6) ∧
    faultIs (runAccess ⟨true, 0x04#6, 4, 0#32⟩ State.reset) (.busError 0x04#6) ∧
    faultIs (runAccess ⟨false, 0x02#6, 4, 0#32⟩ State.reset) (.busError 0x02#6) ∧
    faultIs (runAccess ⟨true, 0x08#6, 1, 0#32⟩ State.reset) (.busError 0x08#6) := by decide

theorem test_step_takes_events_in_order :
    after (step { State.reset with agenda := [.access ⟨true, 0x08#6, 4, 7#32⟩, .micro] }) (fun t => (t.din, t.agenda)) =
      some (7#32, [.micro]) := by decide

theorem test_reset_abandons_the_beat :
    after (step { absorbing with agenda := [.reset, .micro] }) (fun t => (t.ustate, t.pcnt, t.mcnt, t.agenda)) =
      some (UState.ready, 0#3, 0#61, [.micro]) := by decide

/-- The row's first instruction after reset, one per format. -/
theorem test_first_instruction_after_reset :
    after (step (State.reset.withFetchWord 32 0x3)) (fun t => t.ustate) = some UState.pad80 ∧
    after (step (State.reset.withFetchWord 8 0x04)) (fun t => t.rdata) = some 0#32 ∧
    after (step (State.reset.withFetchWord 16 0x040)) (fun t => (t.ustate, t.fill)) = some (UState.ready, 1#7) := by decide

/-! ### Witnesses: each statement's hypotheses are met, clause by clause, at a boundary where there is a range -/

theorem witness_DecodeOfEncodeIsTheInstruction : WellFormed (.absorb 4) := by decide
theorem witness_EncodeOfDecodeIsTheWord : decode (.uop 0b0011111111#10) = .ok (.stepI 15#4) := by decide
theorem witness_StepServesTheHostAccess :
    (Access.mk true 0x08#6 4 0#32).isLegal = true ∧ (Access.mk true 0x08#6 2 0#32).isLegal = false ∧
    (Access.mk false 0x30#6 4 0#32).isLegal = false := by decide
theorem witness_StepRunsTheSelectedMicroOp : decodeUop (uopWord UState.cmpStep 63#6) = .ok (.stepI 15#4) := by decide
theorem witness_IdleEngineHoldsAllState :
    State.reset.ustate = UState.ready ∧ abcDone.ustate = UState.done ∧ overflowed.ustate = UState.error := by decide
theorem witness_PlacedTableWordRunsNext :
    decodeTableWord 32 0x32 = some (.absorb 4) ∧ decodeTableWord 16 0x040 = some .absByte := by decide
theorem witness_ResetGivesTheResetValues : { absorbing with agenda := [.reset] }.agenda = .reset :: [] := rfl
theorem witness_WindowOffsetIsTheLowAddressBits : Config.md5deBase ≤ Config.md5deBase + 63 := by omega
theorem witness_CommandWhileBusyIsDropped : absorbing.busy = true ∧ State.reset.idle = true := by decide
theorem witness_AcceptedWordRunsItsCommand :
    overflowed.idle = true ∧ (0x00000040#32).toNat / 64 ≠ 0 ∧ 5 ≤ (0x00000005#32).toNat % 16 ∧
    (0x00000013#32).toNat % 16 ≠ 2 ∧ (0x00000013#32).toNat / 16 % 4 ≠ 0 := by decide
theorem witness_EveryOtherWordIsIllegal :
    0x00000005#32 ∉ legalCommandWords ∧ 0x00000042#32 ∉ legalCommandWords ∧ abcDone.idle = true ∧
    absorbing.busy = true := by decide
theorem witness_NopHasNoEffect : abcDone.idle = true ∧ absorbing.busy = true := by decide
theorem witness_InitStartsAMessage : overflowed.idle = true ∧ absorbing.busy = true := by decide
theorem witness_ClrerrClearsTheCommandErrors :
    overflowed.idle = true ∧ absorbing.busy = true ∧ (0x80000004#32).toNat % 16 = 4 ∧ 0x80000004#32 ≠ 0x00000004#32 := by decide
theorem witness_StepFIsRoundZero : (abcStep 15#6 1#32 2#32 3#32 4#32).stepCtr.toNat = (15#4).toNat := by decide
theorem witness_StepGIsRoundOne : (abcStep 31#6 1#32 2#32 3#32 4#32).stepCtr.toNat = 16 + (15#4).toNat := by decide
theorem witness_StepHIsRoundTwo : (abcStep 32#6 1#32 2#32 3#32 4#32).stepCtr.toNat = 32 + (0#4).toNat := by decide
theorem witness_StepIIsRoundThree : (abcStep 63#6 1#32 2#32 3#32 4#32).stepCtr.toNat = 48 + (15#4).toNat := by decide
theorem witness_WrongPhaseSetsErrCmd : abcDone.ustate = UState.done ∧ overflowed.ustate = UState.error := by decide
/-- MCNT = 2^61 - 2: one byte is accepted, two overflow (R127). -/
theorem witness_AbsorbTakesABeat :
    (nearlyFull 2).ustate = UState.ready ∧ (nearlyFull 2).mcnt.toNat + 1 ≤ 2 ^ 61 - 1 ∧
    2 ^ 61 - 1 < (nearlyFull 2).mcnt.toNat + 2 ∧ abcDone.idle = true ∧ abcDone.ustate ≠ UState.ready ∧
    absorbing.busy = true := by decide
theorem witness_FinalStartsThePadding :
    State.reset.ustate = UState.ready ∧ overflowed.idle = true ∧ overflowed.ustate ≠ UState.ready ∧
    absorbing.busy = true := by decide
theorem witness_StatusReadReturnsItsFields :
    overflowed.ustate.toNat ≤ 9 ∧ overflowed.fill.toNat ≤ 64 ∧ (abcStep 0#6 0#32 0#32 0#32 0#32).fill.toNat = 64 := by decide
theorem witness_DigestReadsOnlyWhenDone :
    abcDone.ustate = UState.done ∧ overflowed.ustate.toNat ≤ 9 ∧ overflowed.ustate ≠ UState.done := by decide
theorem witness_DigestLanesAreTheDigestBytes : abcDone.ustate = UState.done := by decide
theorem witness_AbsByteMovesOneByte :
    absorbing.buf.wf ∧ 1 ≤ absorbing.pcnt.toNat ∧ absorbing.pcnt.toNat ≤ 4 ∧ absorbing.fill.toNat = 63 := by decide
theorem witness_Pad80WritesTheMarker :
    (padding UState.pad80 63#7).buf.wf ∧ (padding UState.pad80 63#7).fill.toNat ≤ 63 := by decide
theorem witness_PadZeroWritesAZeroByte :
    (padding UState.padZero 63#7).buf.wf ∧ (padding UState.padZero 0#7).fill.toNat ≤ 63 := by decide
theorem witness_PadLenWritesTheLengthField : abcBlock.wf := by decide
theorem witness_PadProperties :
    (List.replicate 55 0#8).length % 64 = 55 ∧ (List.replicate 56 0#8).length % 64 = 56 ∧
    (List.replicate 57 0#8).length = 57 ∧ padZeros 55 = 0 ∧ padZeros 56 = 63 := by decide
theorem witness_PadIsTheSmallest : ([] : List Byte).length ≤ 2 ^ 61 - 1 := by decide
theorem witness_StepCounterAdvances :
    (abcStep 0#6 1#32 2#32 3#32 4#32).ustate = UState.cmpStep ∧ (abcStep 0#6 1#32 2#32 3#32 4#32).stepCtr = 0#6 ∧
    (abcStep 63#6 1#32 2#32 3#32 4#32).stepCtr = 63#6 := by decide
theorem witness_CmpAccFeedsForward :
    abcDone.ret = Ret.done ∧ ({ abcDone with ret := Ret.pad } : State).ret = Ret.pad ∧ absorbing.ret = Ret.abs ∧
    1 ≤ absorbing.pcnt.toNat ∧ absorbing.pcnt.toNat ≤ 4 ∧ State.reset.ret = Ret.abs ∧ State.reset.pcnt = 0#3 := by decide
theorem witness_MixingFunctionsAreBitwiseMuxes : 31 < 32 ∧ (0x80000000#32).getLsbD 31 = true := by decide
theorem witness_RotatorMovesEachBit : 31 < 32 ∧ (0x80000000#32).getLsbD 31 = true ∧ rotAmount 51#6 = 21 := by decide
theorem witness_EqualReadsAreEqualBuffers : abcBlock.wf ∧ Memory.wf [] := by decide

/-- A state in the middle of a beat meets the invariant. -/
theorem absorbing_meets_the_invariant : Inv absorbing where
  bufWf := by decide
  ustateLegal := by decide
  retLegal := by decide
  counts := by unfold countsAgree; decide
  overflow := by decide

theorem witness_StepKeepsTheInvariant : Inv absorbing ∧ ∃ t, step absorbing = .next t :=
  ⟨absorbing_meets_the_invariant, _, rfl⟩
theorem witness_InvariantBoundsTheCounts : Inv absorbing := absorbing_meets_the_invariant
theorem witness_OnlyAnIllegalAccessStops : Inv absorbing := absorbing_meets_the_invariant
theorem witness_UnreachableValuesFault :
    9 < ({ absorbing with ustate := 10#4 } : State).ustate.toNat ∧ ({ abcDone with ret := 3#2 } : State).ret = 3#2 ∧
    64 < (padding UState.pad80 65#7).fill.toNat ∧ 63 < (padding UState.pad80 64#7).fill.toNat ∧
    State.reset.pcnt = 0#3 ∧ 4 < ({ absorbing with pcnt := 5#3 } : State).pcnt.toNat := by decide
theorem witness_EachFieldHasItsWriters :
    ∃ t, exec .absByte absorbing = .next t ∧ t.buf ≠ absorbing.buf ∧ t.fill ≠ absorbing.fill ∧
      t.pcnt ≠ absorbing.pcnt ∧ t.ustate ≠ absorbing.ustate :=
  ⟨_, rfl, by decide⟩
theorem witness_OneAccessReportsOneError :
    (Access.mk false 0x00#6 4 0#32).isLegal = false ∧ (Access.mk true 0x00#6 4 0x12#32).isLegal = true ∧
    0x12#32 ∈ legalCommandWords ∧ 2 ^ 61 - 1 < (nearlyFull 2).mcnt.toNat + ((0x12#32).toNat / 16 + 1) ∧
    abcDone.idle = true ∧ absorbing.busy = true ∧ (∃ t, runAccess ⟨true, 0x00#6, 4, 5#32⟩ abcDone = .next t) :=
  ⟨by decide, by decide, by decide, by decide, by decide, by decide, _, rfl⟩
theorem witness_DigestIsImmutable :
    abcDone.ustate = UState.done ∧ (Event.access ⟨true, 0x00#6, 4, 3#32⟩).isRestart = false ∧
    ∃ t, runEvents [.access ⟨true, 0x00#6, 4, 3#32⟩, .micro] abcDone = .next t :=
  ⟨by decide, by decide, _, rfl⟩
theorem witness_ErrorIsLeftOnlyByInitOrReset :
    overflowed.ustate = UState.error ∧ overflowed.errOvf = true ∧
    ∃ t, runEvents [.access ⟨true, 0x00#6, 4, 4#32⟩, .micro] overflowed = .next t :=
  ⟨by decide, by decide, _, rfl⟩
theorem witness_SixtySixMicroStepsCompress :
    ({ abcStep 0#6 1#32 2#32 3#32 4#32 with ustate := UState.cmpLoad } : State).ustate = UState.cmpLoad ∧
    (abcStep 0#6 1#32 2#32 3#32 4#32).ret = Ret.done ∧ absorbing.ret = Ret.abs ∧ absorbing.pcnt.toNat ≤ 4 := by decide
theorem witness_AbsorbToCompletion :
    (nearlyFull 2).ustate = UState.ready ∧ (nearlyFull 1).fill.toNat ≤ 63 ∧
    (nearlyFull 2).mcnt.toNat + 1 ≤ 2 ^ 61 - 1 := by decide
theorem witness_FinalToCompletion :
    State.reset.ustate = UState.ready ∧ State.reset.fill.toNat = State.reset.mcnt.toNat % 64 ∧
    (nearlyFull 1).fill.toNat = (nearlyFull 1).mcnt.toNat % 64 := by decide
theorem witness_WholeComputationIsTheDigest :
    State.reset.buf.wf ∧ (∀ b ∈ [[0x61#8, 0x62#8, 0x63#8, 0x64#8], [0x65#8]], 1 ≤ b.length ∧ b.length ≤ 4) ∧
    State.reset.idle = true := by decide
theorem witness_MicroStepCounts :
    abcDone.idle = true ∧ 5#32 ∉ legalCommandWords ∧ overflowed.ustate = UState.error ∧
    (nearlyFull 1).ustate = UState.ready ∧ (nearlyFull 1).fill.toNat = (nearlyFull 1).mcnt.toNat % 64 ∧
    2 ^ 61 - 1 < (nearlyFull 1).mcnt.toNat + 1 := by decide
theorem witness_BusyEndsWithinTheBound : Inv absorbing ∧ absorbing.busy = true :=
  ⟨absorbing_meets_the_invariant, by decide⟩
theorem witness_ScheduleDoesNotChangeTheResult :
    Inv absorbing ∧ (Event.access ⟨true, 0x08#6, 4, 1#32⟩).isQuiet = true ∧
    (Event.access ⟨false, 0x2C#6, 4, 0#32⟩).isQuiet = true :=
  ⟨absorbing_meets_the_invariant, by decide, by decide⟩
theorem witness_UnspecifiedResetValuesAreNeverObservable :
    SameSpecified State.reset { State.reset with buf := abcBlock, pend := 5#32, ret := Ret.pad, stepCtr := 9#6 } ∧
    abcBlock.wf ∧ State.reset.ustate = UState.ready ∧ State.reset.fill = 0#7 ∧ State.reset.pcnt = 0#3 :=
  ⟨⟨rfl, rfl, rfl, rfl, rfl, rfl, rfl, rfl, rfl, rfl⟩, by decide, rfl, rfl, rfl⟩

/-- MCNT = 2^61 - 2: the word for one byte is accepted, the word for two overflows (R127). -/
theorem witness_CommandWriteCompletes :
    absorbing.busy = true ∧ abcDone.idle = true ∧ abcDone.ustate ≠ UState.ready ∧ 0x00000005#32 ∉ legalCommandWords ∧
    0x00000012#32 ∈ legalCommandWords ∧ 0x00000002#32 ∈ legalCommandWords ∧ (nearlyFull 2).ustate = UState.ready ∧
    (nearlyFull 2).mcnt.toNat + ((0x00000002#32).toNat / 16 + 1) ≤ 2 ^ 61 - 1 ∧
    2 ^ 61 - 1 < (nearlyFull 2).mcnt.toNat + ((0x00000012#32).toNat / 16 + 1) := by decide

end Sys2Proof.Tests
end

section
/-! The command decoder's legal words (30_encoding.md R91-R93): the eight words by value and by fields, and what
`decodeCmd` and `decodeAndExecute` answer outside them. -/

namespace Sys2Proof.Machine

/-! ### The fields of a CMD word as numbers (R91) -/

theorem opField_toNat (w : Word) : (w.extractLsb' 0 4).toNat = w.toNat % 16 := by
  simp [BitVec.extractLsb'_toNat]

theorem nbm1Field_toNat (w : Word) : (w.extractLsb' 4 2).toNat = w.toNat / 16 % 4 := by
  simp [BitVec.extractLsb'_toNat, Nat.shiftRight_eq_div_pow]

/-- RSVD is the rest of the word, so no bit above it is cut off. -/
theorem rsvdField_toNat (w : Word) : (w.extractLsb' 6 26).toNat = w.toNat / 64 := by
  have hw : w.toNat < 2 ^ 32 := w.isLt
  simp only [BitVec.extractLsb'_toNat, Nat.shiftRight_eq_div_pow]
  omega

/-! ### The eight legal words (R92) -/

theorem mem_legalCommandWords_iff_toNat (w : Word) :
    w ∈ legalCommandWords ↔
      w.toNat = 0 ∨ w.toNat = 1 ∨ w.toNat = 2 ∨ w.toNat = 18 ∨ w.toNat = 34 ∨ w.toNat = 50 ∨ w.toNat = 3 ∨
        w.toNat = 4 := by
  simp [legalCommandWords, ← BitVec.toNat_inj]

/-- R93's test on the fields is the complement of R92's list. -/
theorem not_mem_legalCommandWords_iff (w : Word) :
    w ∉ legalCommandWords ↔
      w.toNat / 64 ≠ 0 ∨ 5 ≤ w.toNat % 16 ∨ (w.toNat % 16 ≠ 2 ∧ w.toNat / 16 % 4 ≠ 0) := by
  rw [mem_legalCommandWords_iff_toNat]
  omega

/-! ### The decoder on legal and on illegal words (R92, R93) -/

@[simp] theorem decodeCmd_nopWord : decodeCmd 0x00000000#32 = .ok .nop := rfl
@[simp] theorem decodeCmd_initWord : decodeCmd 0x00000001#32 = .ok .init := rfl
@[simp] theorem decodeCmd_absorbOneWord : decodeCmd 0x00000002#32 = .ok (.absorb 1) := rfl
@[simp] theorem decodeCmd_absorbTwoWord : decodeCmd 0x00000012#32 = .ok (.absorb 2) := rfl
@[simp] theorem decodeCmd_absorbThreeWord : decodeCmd 0x00000022#32 = .ok (.absorb 3) := rfl
@[simp] theorem decodeCmd_absorbFourWord : decodeCmd 0x00000032#32 = .ok (.absorb 4) := rfl
@[simp] theorem decodeCmd_finalWord : decodeCmd 0x00000003#32 = .ok .final := rfl
@[simp] theorem decodeCmd_clrerrWord : decodeCmd 0x00000004#32 = .ok .clrerr := rfl

/-- The decoder's own test of the three fields is R93's. -/
theorem decodeCmd_of_not_mem {w : Word} (h : w ∉ legalCommandWords) :
    decodeCmd w = .error (.illegalCommand w) := by
  have hfields : w.extractLsb' 6 26 ≠ 0#26 ∨ 5 ≤ (w.extractLsb' 0 4).toNat ∨
      (w.extractLsb' 0 4 ≠ 2#4 ∧ w.extractLsb' 4 2 ≠ 0#2) := by
    simpa only [ne_eq, ← BitVec.toNat_inj, rsvdField_toNat, opField_toNat, nbm1Field_toNat, BitVec.toNat_ofNat,
      Nat.zero_mod, Nat.reducePow, Nat.reduceMod] using (not_mem_legalCommandWords_iff w).1 h
  exact if_pos hfields

theorem exists_decodeCmd_eq_ok_of_mem : ∀ w ∈ legalCommandWords, ∃ i, decodeCmd w = .ok i := by
  simp [legalCommandWords]

/-- R92: a word decodes to an instruction exactly when it is one of the eight. -/
theorem exists_decodeCmd_eq_ok_iff (w : Word) : (∃ i, decodeCmd w = .ok i) ↔ w ∈ legalCommandWords := by
  constructor
  · rintro ⟨i, hi⟩
    by_contra hw
    rw [decodeCmd_of_not_mem hw] at hi
    cases hi
  · exact exists_decodeCmd_eq_ok_of_mem w

/-- R122: an illegal word sets ERR_CMD and nothing else. -/
theorem decodeAndExecute_of_not_mem {w : Word} (h : w ∉ legalCommandWords) (s : State) :
    decodeAndExecute w s = .next { s with errCmd := true } := by
  rw [decodeAndExecute, decodeCmd_of_not_mem h, enterError_cmd]

/-! ### The obligations -/

/-- Settles O3: the eight words by evaluation, every other word by R93's field test. -/
theorem exactlyEightCommandWordsAreLegal : Obligations.ExactlyEightCommandWordsAreLegal :=
  ⟨decodeCmd_nopWord, decodeCmd_initWord, decodeCmd_absorbOneWord, decodeCmd_absorbTwoWord, decodeCmd_absorbThreeWord,
    decodeCmd_absorbFourWord, decodeCmd_finalWord, decodeCmd_clrerrWord, exists_decodeCmd_eq_ok_iff⟩

/-- Settles O13: the field test is the complement of the eight words; accepted, such a word is rejected by the decoder,
and while busy no word reaches it. -/
theorem everyOtherWordIsIllegal : Obligations.EveryOtherWordIsIllegal := by
  intro s w
  refine ⟨not_mem_legalCommandWords_iff w, fun hw hidle => ?_, fun hbusy => ?_⟩
  · rw [exec_wrCmd, presentCommand_idle hidle, decodeAndExecute_of_not_mem hw]
  · rw [exec_wrCmd, presentCommand_busy hbusy]

end Sys2Proof.Machine
end

section
/-! The host's accesses (40_host_commands.md R121-R133): what each command leaves by the phase it is accepted in, what a
write of CMD leaves by its word, and the fields of the words the reads return. -/

namespace Sys2Proof.Machine

section
variable {s : State} {nb : Nat}

/-! ### Commands, by the phase they are accepted in (R123-R128) -/

theorem exec_nop_of_idle (hidle : s.idle = true) : exec .nop s = .next s :=
  presentCommand_idle hidle

theorem exec_init_of_idle (hidle : s.idle = true) :
    exec .init s = .next { s with
      reg := iv, fill := 0#7, mcnt := 0#61, pcnt := 0#3, errOvf := false, errCmd := false, errBusy := false
      ustate := UState.ready } := by
  rw [exec_init, presentCommand_idle hidle, acceptInit, startMessage_eq]

theorem exec_clrerr_of_idle (hidle : s.idle = true) :
    exec .clrerr s = .next { s with errCmd := false, errBusy := false } := by
  rw [exec_clrerr, presentCommand_idle hidle, acceptClrerr, clearCommandErrors_eq]

/-- R126: outside U_READY an accepted ABSORB is rejected. -/
theorem exec_absorb_of_not_ready (hidle : s.idle = true) (hphase : s.ustate ≠ UState.ready) :
    exec (.absorb nb) s = .next { s with errCmd := true } := by
  rw [exec_absorb, presentCommand_idle hidle, acceptAbsorb, if_pos hphase, enterError_cmd]

theorem exec_absorb_of_ready_of_le (hready : s.ustate = UState.ready) (hle : s.mcnt.toNat + nb ≤ maxMessageBytes) :
    exec (.absorb nb) s = .next { s with
      mcnt := s.mcnt + BitVec.ofNat 61 nb, pend := s.din, pcnt := BitVec.ofNat 3 nb, ustate := UState.absByte } := by
  rw [exec_absorb, presentCommand_idle (State.idle_of_ready hready), acceptAbsorb, if_neg (not_not.2 hready),
    if_neg (Nat.not_lt.2 hle)]
  rfl

/-- LengthOverflow is decided on the whole beat. -/
theorem exec_absorb_of_ready_of_lt (hready : s.ustate = UState.ready) (hlt : maxMessageBytes < s.mcnt.toNat + nb) :
    exec (.absorb nb) s = .next { s with errOvf := true, ustate := UState.error } := by
  rw [exec_absorb, presentCommand_idle (State.idle_of_ready hready), acceptAbsorb, if_neg (not_not.2 hready),
    if_pos hlt, enterError_ovf]

/-- R126: outside U_READY an accepted FINAL is rejected. -/
theorem exec_final_of_not_ready (hidle : s.idle = true) (hphase : s.ustate ≠ UState.ready) :
    exec .final s = .next { s with errCmd := true } := by
  rw [exec_final, presentCommand_idle hidle, acceptFinal, if_pos hphase, enterError_cmd]

theorem exec_final_of_ready (hready : s.ustate = UState.ready) :
    exec .final s = .next { s with ustate := UState.pad80 } := by
  rw [exec_final, presentCommand_idle (State.idle_of_ready hready), acceptFinal, if_neg (not_not.2 hready)]
  rfl

/-- In a waiting phase every ABSORB answers. -/
theorem exists_exec_absorb_eq_next (hidle : s.idle = true) : ∃ t, exec (.absorb nb) s = .next t := by
  by_cases hready : s.ustate = UState.ready
  · rcases Nat.lt_or_ge maxMessageBytes (s.mcnt.toNat + nb) with hlt | hle
    · exact ⟨_, exec_absorb_of_ready_of_lt hready hlt⟩
    · exact ⟨_, exec_absorb_of_ready_of_le hready hle⟩
  · exact ⟨_, exec_absorb_of_not_ready hidle hready⟩

/-- In a waiting phase FINAL answers. -/
theorem exists_exec_final_eq_next (hidle : s.idle = true) : ∃ t, exec .final s = .next t := by
  by_cases hready : s.ustate = UState.ready
  · exact ⟨_, exec_final_of_ready hready⟩
  · exact ⟨_, exec_final_of_not_ready hidle hready⟩

end

/-! ### A write of CMD, by its word (R121, R122) -/

section
variable {s : State} {w : Word} {i : Instr}

/-- R122: the decoder answers commands only. -/
theorem decodeCmd_ok_cases (h : decodeCmd w = .ok i) :
    i = .nop ∨ i = .init ∨ (∃ nb, i = .absorb nb) ∨ i = .final ∨ i = .clrerr := by
  simp only [decodeCmd] at h
  split_ifs at h <;> cases h <;> simp

/-- Writing a legal word to CMD is its command as an instruction, in every micro-state. -/
theorem exec_wrCmd_of_decodeCmd (h : decodeCmd w = .ok i) (s : State) : exec (.wrCmd w) s = exec i s := by
  rcases decodeCmd_ok_cases h with rfl | rfl | ⟨nb, rfl⟩ | rfl | rfl <;>
    exact congrArg (presentCommand · s) (funext fun t => by rw [decodeAndExecute, h])

theorem exec_wrCmd_of_busy (hbusy : s.busy = true) : exec (.wrCmd w) s = .next { s with errBusy := true } :=
  presentCommand_busy hbusy

theorem exec_wrCmd_of_not_mem (hidle : s.idle = true) (hw : w ∉ legalCommandWords) :
    exec (.wrCmd w) s = .next { s with errCmd := true } := by
  obtain ⟨-, hcmd, -⟩ := everyOtherWordIsIllegal s w
  exact hcmd hw hidle

/-- R91: a legal word with OP = 2 carries its byte count in NBM1. -/
theorem decodeCmd_of_op_two :
    ∀ w ∈ legalCommandWords, w.toNat % 16 = 2 → decodeCmd w = .ok (.absorb (w.toNat / 16 + 1)) := by
  simp [legalCommandWords]

theorem decodeCmd_of_op_three : ∀ w ∈ legalCommandWords, w.toNat % 16 = 3 → decodeCmd w = .ok .final := by
  simp [legalCommandWords]

/-- R125: CLRERR's opcode with another bit set is no command. -/
theorem not_mem_legalCommandWords_of_op_four (hop : w.toNat % 16 = 4) (hne : w ≠ 0x00000004#32) :
    w ∉ legalCommandWords := by
  have hne' : w.toNat ≠ 4 := fun h => hne (BitVec.eq_of_toNat_eq h)
  rw [mem_legalCommandWords_iff_toNat]
  omega

/-- In a waiting phase a write of CMD answers whatever the word: an illegal one is rejected, each command answers. -/
theorem exists_exec_wrCmd_eq_next (hidle : s.idle = true) (w : Word) : ∃ t, exec (.wrCmd w) s = .next t := by
  by_cases hw : w ∈ legalCommandWords
  · obtain ⟨i, hi⟩ := (exists_decodeCmd_eq_ok_iff w).2 hw
    rw [exec_wrCmd_of_decodeCmd hi]
    rcases decodeCmd_ok_cases hi with rfl | rfl | ⟨nb, rfl⟩ | rfl | rfl
    · exact ⟨_, exec_nop_of_idle hidle⟩
    · exact ⟨_, exec_init_of_idle hidle⟩
    · exact exists_exec_absorb_eq_next hidle
    · exact exists_exec_final_eq_next hidle
    · exact ⟨_, exec_clrerr_of_idle hidle⟩
  · exact ⟨_, exec_wrCmd_of_not_mem hidle hw⟩

/-- R126 for the words: ABSORB and FINAL act only in U_READY. -/
theorem exec_wrCmd_of_not_ready (hidle : s.idle = true) (hphase : s.ustate ≠ UState.ready)
    (hw : w ∈ legalCommandWords) (hop : w.toNat % 16 = 2 ∨ w.toNat % 16 = 3) :
    exec (.wrCmd w) s = .next { s with errCmd := true } := by
  rcases hop with hop | hop
  · rw [exec_wrCmd_of_decodeCmd (decodeCmd_of_op_two w hw hop), exec_absorb_of_not_ready hidle hphase]
  · rw [exec_wrCmd_of_decodeCmd (decodeCmd_of_op_three w hw hop), exec_final_of_not_ready hidle hphase]

end

/-! ### The words the reads return -/

section
variable (n : BitVec 61)

theorem mcntLow_eq_ofNat : n.extractLsb' 0 32 = BitVec.ofNat 32 (n.toNat % 2 ^ 32) := by
  apply BitVec.eq_of_toNat_eq
  simp [BitVec.extractLsb'_toNat]

/-- MCNT's upper 29 bits fit the word, so zero-extension keeps the quotient whole. -/
theorem mcntHigh_eq_ofNat : (n.extractLsb' 32 29).setWidth 32 = BitVec.ofNat 32 (n.toNat / 2 ^ 32) := by
  have hn : n.toNat < 2 ^ 61 := n.isLt
  apply BitVec.eq_of_toNat_eq
  simp only [BitVec.toNat_setWidth, BitVec.extractLsb'_toNat, Nat.shiftRight_eq_div_pow, BitVec.toNat_ofNat]
  omega

end

/-! ### STATUS, field by field (R31, R129) -/

section
variable (p : BitVec 3) (s : State)

/-- The word's single bits: five flags, and a zero above FILL. -/
theorem statusWord_bits :
    (statusWord p s).getLsbD 0 = s.busy ∧ (statusWord p s).getLsbD 1 = s.done ∧
    (statusWord p s).getLsbD 2 = s.errOvf ∧ (statusWord p s).getLsbD 3 = s.errCmd ∧
    (statusWord p s).getLsbD 4 = s.errBusy ∧ (statusWord p s).getLsbD 15 = false := by
  simp only [statusWord, BitVec.getLsbD_append]
  simp

/-- The word's wider fields: FILL, PHASE and the zeros around them. -/
theorem statusWord_fields :
    (statusWord p s).extractLsb' 5 3 = 0#3 ∧ (statusWord p s).extractLsb' 8 7 = s.fill ∧
    (statusWord p s).extractLsb' 16 3 = p ∧ (statusWord p s).extractLsb' 19 13 = 0#13 := by
  simp (disch := decide) only [statusWord, BitVec.extractLsb'_append_eq_of_le,
    BitVec.extractLsb'_append_eq_of_add_le]
  simp

variable {p s}

theorem exec_rdStatus_of_phase (hphase : UState.phase s.ustate = some p) (hfill : s.fill.toNat ≤ 64) :
    exec .rdStatus s = .next { s with rdata := statusWord p s } := by
  simp only [exec_rdStatus, execRdStatus, hphase, if_neg (Nat.not_lt.2 hfill), hostRead_eq]

end

/-- R27's last column as a list over USTATE. -/
theorem exists_phase_eq_some : ∀ u : BitVec 4, u.toNat ≤ 9 →
    ∃ p, UState.phase u = some p ∧ p.toNat = [0, 1, 2, 2, 2, 3, 3, 3, 4, 5].getD u.toNat 7 := by
  decide

theorem State.busy_eq_decide (s : State) : s.busy = decide (1 ≤ s.ustate.toNat ∧ s.ustate.toNat ≤ 7) := by
  rw [Bool.eq_iff_iff, decide_eq_true_iff]
  exact UState.isBusy_iff s.ustate

/-! ### The obligations -/

/-- Settles O11: while busy presenting drops the command before it looks at it; while waiting it hands the word on. -/
theorem commandWhileBusyIsDropped : Obligations.CommandWhileBusyIsDropped := by
  intro s
  refine ⟨fun hbusy w nb => ?_, fun hidle w => presentCommand_idle hidle⟩
  simp only [exec_wrCmd, exec_nop, exec_init, exec_absorb, exec_final, exec_clrerr, presentCommand_busy hbusy,
    and_self]

/-- Settles O12: a legal word's write is its command's instruction, and the field test puts a word outside the eight. -/
theorem acceptedWordRunsItsCommand : Obligations.AcceptedWordRunsItsCommand := by
  intro s hidle
  exact ⟨exec_wrCmd_of_decodeCmd decodeCmd_nopWord s, exec_wrCmd_of_decodeCmd decodeCmd_initWord s,
    exec_wrCmd_of_decodeCmd decodeCmd_absorbOneWord s, exec_wrCmd_of_decodeCmd decodeCmd_absorbTwoWord s,
    exec_wrCmd_of_decodeCmd decodeCmd_absorbThreeWord s, exec_wrCmd_of_decodeCmd decodeCmd_absorbFourWord s,
    exec_wrCmd_of_decodeCmd decodeCmd_finalWord s, exec_wrCmd_of_decodeCmd decodeCmd_clrerrWord s,
    fun w hfields => exec_wrCmd_of_not_mem hidle ((not_mem_legalCommandWords_iff w).2 hfields)⟩

/-- Settles O14: an accepted NOP is the identity, and presenting drops it while busy. -/
theorem nopHasNoEffect : Obligations.NopHasNoEffect :=
  fun _ => ⟨exec_nop_of_idle, presentCommand_busy⟩

/-- Settles O15: `iv` is R100's quad. -/
theorem initStartsAMessage : Obligations.InitStartsAMessage :=
  fun _ => ⟨exec_init_of_idle, presentCommand_busy⟩

/-- Settles O16: the third clause by the word's number, since only 4 has OP = 4 among the eight. -/
theorem clrerrClearsTheCommandErrors : Obligations.ClrerrClearsTheCommandErrors :=
  fun _ => ⟨exec_clrerr_of_idle, presentCommand_busy,
    fun hidle _ hop hne => exec_wrCmd_of_not_mem hidle (not_mem_legalCommandWords_of_op_four hop hne)⟩

/-- Settles O17: both phases wait for the host and are not U_READY. -/
theorem wrongPhaseSetsErrCmd : Obligations.WrongPhaseSetsErrCmd := by
  intro s nb hphase
  have hidle : s.idle = true := hphase.elim State.idle_of_done State.idle_of_error
  have hne : s.ustate ≠ UState.ready := by rcases hphase with h | h <;> simp [h]
  exact ⟨exec_absorb_of_not_ready hidle hne, exec_final_of_not_ready hidle hne⟩

/-- Settles O20: the arm of WR_DIN reads no phase. -/
theorem dinWriteSetsDinOnly : Obligations.DinWriteSetsDinOnly :=
  exec_wrDin

/-- Settles O21: the two halves of MCNT as remainder and quotient by 2^32. -/
theorem dinAndLengthReads : Obligations.DinAndLengthReads := by
  intro s
  refine ⟨exec_rdDin s, ?_, ?_⟩
  · rw [exec_rdLenLo, mcntLow_eq_ofNat]
  · rw [exec_rdLenHi, mcntHigh_eq_ofNat]

/-- Settles O22: the micro-state has a PHASE, so the read returns STATUS, whose fields are read off one by one. -/
theorem statusReadReturnsItsFields : Obligations.StatusReadReturnsItsFields := by
  intro s hustate hfill
  obtain ⟨p, hphase, hp⟩ := exists_phase_eq_some s.ustate hustate
  obtain ⟨hbusy, hdone, hovf, hcmd, hbusyErr, h15⟩ := statusWord_bits p s
  obtain ⟨hzeros, hfillField, hphaseField, htop⟩ := statusWord_fields p s
  exact ⟨statusWord p s, exec_rdStatus_of_phase hphase hfill, hbusy.trans s.busy_eq_decide, hdone, hovf, hcmd,
    hbusyErr, hzeros, hfillField, h15, by rwa [hphaseField], htop⟩

/-- Settles O59: the word is dropped while busy, else it is a legal word, whose write is its command, or rejected. -/
theorem commandWriteCompletes : Obligations.CommandWriteCompletes := by
  intro s
  refine ⟨?_, fun hbusy w => exec_wrCmd_of_busy hbusy, fun hidle => ⟨?_, ?_, ?_, ?_, ?_⟩,
    fun hready => ⟨?_, ?_⟩⟩
  · rintro (hbusy | hidle) w
    · exact ⟨_, exec_wrCmd_of_busy hbusy⟩
    · exact exists_exec_wrCmd_eq_next hidle w
  · rw [exec_wrCmd_of_decodeCmd decodeCmd_nopWord, exec_nop_of_idle hidle]
  · rw [exec_wrCmd_of_decodeCmd decodeCmd_initWord, exec_init_of_idle hidle, iv]
  · rw [exec_wrCmd_of_decodeCmd decodeCmd_clrerrWord, exec_clrerr_of_idle hidle]
  · exact fun w hw => exec_wrCmd_of_not_mem hidle hw
  · exact fun w hphase hw hop => exec_wrCmd_of_not_ready hidle hphase hw hop
  · rw [exec_wrCmd_of_decodeCmd decodeCmd_finalWord, exec_final_of_ready hready]
  · intro w hw hop
    rw [exec_wrCmd_of_decodeCmd (decodeCmd_of_op_two w hw hop)]
    refine ⟨fun hle => ?_, exec_absorb_of_ready_of_lt hready⟩
    rw [exec_absorb_of_ready_of_le hready hle, BitVec.ofNat_add s.mcnt.toNat, BitVec.ofNat_toNat, BitVec.setWidth_eq]

end Sys2Proof.Machine
end

section
/-! The compressor (42_compression.md R174-R183): the role mux as a case of the group position, the schedule's three
tables at operation j of round r, and where CMP_ACC goes by RET. -/

namespace Sys2Proof.Machine

/-! ### The role mux (R174) -/

/-- Writing the target of group position p is the update in which p alone chooses who plays "A", "B", "C" and "D". -/
theorem set_roles_eq_updateByRole (p : BitVec 2) (q : Quad) (new : Word → Word → Word → Word → Word) :
    q.set (roles p).t (new (q.get (roles p).t) (q.get (roles p).x) (q.get (roles p).y) (q.get (roles p).z)) =
      updateByRole p.toNat q new := by
  have hp : p = 0#2 ∨ p = 1#2 ∨ p = 2#2 ∨ p = 3#2 := by revert p; decide
  rcases hp with rfl | rfl | rfl | rfl <;> rfl

theorem groupPosition_toNat (k : BitVec 6) : (k.extractLsb' 0 2).toNat = k.toNat % 4 := by
  simp [BitVec.extractLsb'_toNat]

/-- One pass through the datapath is R178's formula at the target that k's group position names. -/
theorem roundQuad_eq_updateByRole (f : Word → Word → Word → Word) (k : BitVec 6) (m : Memory) (q : Quad) :
    roundQuad f k m q = updateByRole (k.toNat % 4) q
      (stepFormula f (wordView m (wordIndex k)) (roundConst k) (rotAmount k)) := by
  rw [← groupPosition_toNat, ← set_roles_eq_updateByRole]
  rfl

/-! ### Operation k = 16 * r + j (R95, R97-R99) -/

section
variable (r : BitVec 2) (j : BitVec 4)

theorem operation_toNat : (r ++ j).toNat = 16 * r.toNat + j.toNat := by
  rw [BitVec.toNat_append, ← Nat.shiftLeft_add_eq_or_of_lt j.isLt, Nat.shiftLeft_eq]
  omega

theorem operation_div_sixteen : (r ++ j).toNat / 16 = r.toNat := by
  rw [operation_toNat]
  omega

theorem operation_mod_four : (r ++ j).toNat % 4 = j.toNat % 4 := by
  rw [operation_toNat]
  omega

theorem operation_succ : r ++ j + 1#6 = BitVec.ofNat 6 (16 * r.toNat + j.toNat + 1) := by
  rw [BitVec.ofNat_add, ← operation_toNat, BitVec.ofNat_toNat, BitVec.setWidth_eq]

/-- The last operation, at which STEP wraps, is the last of round 3. -/
theorem operation_eq_last_iff : r ++ j = 63#6 ↔ r = 3#2 ∧ j.toNat = 15 := by
  revert r j
  decide

theorem wordIndex_operation :
    wordIndex (r ++ j) =
      BitVec.ofNat 4 ([j.toNat, 1 + 5 * j.toNat, 5 + 3 * j.toNat, 7 * j.toNat].getD r.toNat 0 % 16) := by
  revert r j
  decide

theorem roundConst_operation :
    roundConst (r ++ j) =
      ([roundConst0, roundConst1, roundConst2, roundConst3].getD r.toNat []).getD j.toNat 0#32 := by
  revert r j
  decide

theorem rotAmount_operation : rotAmount (r ++ j) = (rotTable.getD r.toNat []).getD (j.toNat % 4) 0 := by
  rw [rotAmount, operation_div_sixteen, operation_mod_four]

/-- R178-R181's formula with every table read at round r and position j. -/
theorem roundQuad_operation (f : Word → Word → Word → Word) (m : Memory) (q : Quad) :
    roundQuad f (r ++ j) m q = updateByRole (j.toNat % 4) q
      (stepFormula f
        (wordView m
          (BitVec.ofNat 4 ([j.toNat, 1 + 5 * j.toNat, 5 + 3 * j.toNat, 7 * j.toNat].getD r.toNat 0 % 16)))
        (([roundConst0, roundConst1, roundConst2, roundConst3].getD r.toNat []).getD j.toNat 0#32)
        ((rotTable.getD r.toNat []).getD (j.toNat % 4) 0)) := by
  rw [roundQuad_eq_updateByRole, operation_mod_four, wordIndex_operation, roundConst_operation, rotAmount_operation]

/-- Before round 3 no operation is the last: STEP goes up by one and USTATE stays. -/
theorem roundOp_operation_of_ne_three {r : BitVec 2} (hr : r ≠ 3#2) (f : Word → Word → Word → Word) (s : State) :
    roundOp f (r ++ j) s = { s with
      reg := roundQuad f (r ++ j) s.buf s.reg, stepCtr := BitVec.ofNat 6 (16 * r.toNat + j.toNat + 1) } := by
  have hlast : r ++ j ≠ 63#6 := fun h => hr ((operation_eq_last_iff r j).1 h).1
  rw [roundOp_eq, if_neg hlast, if_neg hlast, operation_succ]

end

/-! ### CMP_ACC, by RET (R183) -/

section
variable {s : State}

theorem feedForward_eq (s : State) : feedForward s = { s with reg := s.reg.add s.saved, fill := 0#7 } := rfl

theorem exec_cmpAcc_of_done (hret : s.ret = Ret.done) :
    exec .cmpAcc s = .next { s with reg := s.reg.add s.saved, fill := 0#7, ustate := UState.done } := by
  simp [execCmpAcc, hret, feedForward_eq, State.withUstate]

theorem exec_cmpAcc_of_pad (hret : s.ret = Ret.pad) :
    exec .cmpAcc s = .next { s with reg := s.reg.add s.saved, fill := 0#7, ustate := UState.padZero } := by
  simp [execCmpAcc, hret, feedForward_eq, State.withUstate]

/-- The beat goes on while it has bytes left. -/
theorem exec_cmpAcc_of_abs_of_pos (hret : s.ret = Ret.abs) (hpos : 0 < s.pcnt.toNat) (hle : s.pcnt.toNat ≤ 4) :
    exec .cmpAcc s = .next { s with reg := s.reg.add s.saved, fill := 0#7, ustate := UState.absByte } := by
  simp [execCmpAcc, hret, hpos, Nat.not_lt.2 hle, feedForward_eq, State.withUstate]

theorem exec_cmpAcc_of_abs_of_zero (hret : s.ret = Ret.abs) (hzero : s.pcnt = 0#3) :
    exec .cmpAcc s = .next { s with reg := s.reg.add s.saved, fill := 0#7, ustate := UState.ready } := by
  simp [execCmpAcc, hret, hzero, feedForward_eq, State.withUstate]

end

/-! ### The obligations -/

/-- Settles O32: word j in its own order, S[0] and T[0..15]; round 0 never holds the last operation. -/
theorem stepFIsRoundZero : Obligations.StepFIsRoundZero := by
  intro s j _
  have hindex : BitVec.ofNat 4 (j.toNat % 16) = j := by
    rw [Nat.mod_eq_of_lt j.isLt, BitVec.ofNat_toNat, BitVec.setWidth_eq]
  have hword : wordView s.buf (BitVec.ofNat 4 (j.toNat % 16)) = wordView s.buf j := congrArg _ hindex
  have hk : 16 * (0#2).toNat + j.toNat = j.toNat := Nat.zero_add _
  rw [exec_stepF, roundOp_operation_of_ne_three j (by decide), roundQuad_operation, ← hword, hk]
  rfl

/-- Settles O33: the tables' second rows, at k = 16 + j. -/
theorem stepGIsRoundOne : Obligations.StepGIsRoundOne := by
  intro s j _
  rw [exec_stepG, roundOp_operation_of_ne_three j (by decide), roundQuad_operation]
  rfl

/-- Settles O34: the tables' third rows, at k = 32 + j. -/
theorem stepHIsRoundTwo : Obligations.StepHIsRoundTwo := by
  intro s j _
  rw [exec_stepH, roundOp_operation_of_ne_three j (by decide), roundQuad_operation]
  rfl

/-- Settles O35: the tables' fourth rows, at k = 48 + j; here the last operation is the one with j = 15. -/
theorem stepIIsRoundThree : Obligations.StepIIsRoundThree := by
  intro s j _
  have hlast : 3#2 ++ j = 63#6 ↔ j.toNat = 15 := (operation_eq_last_iff 3#2 j).trans (and_iff_right rfl)
  rw [exec_stepI, roundOp_eq, roundQuad_operation, operation_succ]
  simp only [hlast]
  rfl

/-- Settles O37: RET's three legal values, and for RET_ABS whether PCNT is 0. -/
theorem cmpAccFeedsForward : Obligations.CmpAccFeedsForward :=
  fun _ => ⟨exec_cmpAcc_of_done, exec_cmpAcc_of_pad, exec_cmpAcc_of_abs_of_pos, exec_cmpAcc_of_abs_of_zero⟩

end Sys2Proof.Machine
end

section
/-! The serializer (43_serializer.md R201): the word a DIGEST read returns, by USTATE. -/

namespace Sys2Proof.Machine

section
variable {s : State} (n : RegName)

/-! ### A DIGEST read, in U_DONE and outside it (R201) -/

theorem readDigest_of_done (hdone : s.ustate = UState.done) :
    readDigest n s = .next { s with rdata := s.reg.get n } := by
  have hflag : s.done = true := decide_eq_true hdone
  rw [readDigest, if_pos hflag, hostRead_eq]

/-- The partly mixed accumulators are not visible: the word does not depend on the register read. -/
theorem readDigest_of_ne_done (hlegal : s.ustate.toNat ≤ 9) (hdone : s.ustate ≠ UState.done) :
    readDigest n s = .next { s with rdata := 0#32 } := by
  have hflag : ¬ s.done = true := fun h => hdone (of_decide_eq_true h)
  have hphase : s.busy = true ∨ s.idle = true := (UState.legal_iff s.ustate).2 hlegal
  rw [readDigest, if_neg hflag, if_pos hphase, hostRead_eq]

end

/-! ### The obligations -/

/-- Settles O23: the four reads are one read at A, B, C, D. -/
theorem digestReadsOnlyWhenDone : Obligations.DigestReadsOnlyWhenDone := by
  refine fun s => ⟨fun hdone => ?_, fun hlegal hdone => ?_⟩
  · exact ⟨readDigest_of_done .A hdone, readDigest_of_done .B hdone, readDigest_of_done .C hdone,
      readDigest_of_done .D hdone⟩
  · exact ⟨readDigest_of_ne_done .A hlegal hdone, readDigest_of_ne_done .B hlegal hdone,
      readDigest_of_ne_done .C hlegal hdone, readDigest_of_ne_done .D hlegal hdone⟩

end Sys2Proof.Machine
end

section
/-! Errors (60_exceptions.md R210-R217): the accesses that are a BusError, the error flags that a host access newly sets,
and that the engine's turn sets none. -/

namespace Sys2Proof.Machine

/-! ### The window's dispatch (R62, R120) -/

section
variable {s : State} {a : Access}

/-- R62's ten pairs are all that R94's patterns accept. -/
theorem decodeBus_of_not_legalPair {w : Bool} {off : BitVec 6} (h : legalPairs.elem (w, off) = false) (d : Word) :
    decodeBus (BitVec.ofBool w ++ off) d = .error (.illegalAccess (BitVec.ofBool w ++ off)) := by
  have hpatterns : BitVec.ofBool w ++ off ∉ [0b1000000#7, 0b0000100#7, 0b1001000#7, 0b0001000#7, 0b0010000#7,
      0b0010100#7, 0b0100000#7, 0b0100100#7, 0b0101000#7, 0b0101100#7] := by
    revert w off
    decide
  simp only [List.mem_cons, List.not_mem_nil, or_false, not_or] at hpatterns
  simp [decodeBus, hpatterns]

/-- R94: the ten instructions of a legal access. -/
theorem decodeBus_ok_cases {p : BitVec 7} {d : Word} {i : Instr} (h : decodeBus p d = .ok i) :
    i = .wrCmd d ∨ i = .wrDin d ∨ i = .rdStatus ∨ i = .rdDin ∨ i = .rdLenLo ∨ i = .rdLenHi ∨ i = .rdDigest0 ∨
      i = .rdDigest1 ∨ i = .rdDigest2 ∨ i = .rdDigest3 := by
  simp only [decodeBus] at h
  split_ifs at h <;> cases h <;> simp

/-- R120, R130, R68: besides a write of CMD, a legal access sets DIN or returns a word. -/
theorem exec_of_decodeBus_cases {t : State} {p : BitVec 7} {d : Word} {i : Instr} (hi : decodeBus p d = .ok i)
    (h : exec i s = .next t) :
    i = .wrCmd d ∨ t = { s with din := d } ∨ ∃ v, t = { s with rdata := v } := by
  obtain rfl | rfl | rfl | rfl | rfl | rfl | rfl | rfl | rfl | rfl := decodeBus_ok_cases hi
  · exact .inl rfl
  · exact .inr (.inl (Host.Outcome.next.inj h).symm)
  · obtain ⟨-, p, -, rfl⟩ := execRdStatus_next h
    exact .inr (.inr ⟨_, rfl⟩)
  iterate 3 exact .inr (.inr ⟨_, (Host.Outcome.next.inj h).symm⟩)
  iterate 4 exact .inr (.inr ⟨_, readDigest_next h⟩)

/-- R120: an access outside R62's ten, by its size or by its pair, reaches no register. -/
theorem runAccess_of_not_legal (hlegal : a.isLegal = false) (s : State) :
    runAccess a s = .fault (.busError a.off) := by
  by_cases hshape : a.size ≠ 4 ∨ a.off.toNat % 4 ≠ 0
  · rw [runAccess, if_pos hshape]
  · have hsize : a.size = 4 := not_not.1 (not_or.1 hshape).1
    have hpair : legalPairs.elem (a.write, a.off) = false := by simpa [Access.isLegal, hsize] using hlegal
    rw [runAccess, if_neg hshape, Access.pattern, decodeBus_of_not_legalPair hpair]

/-- R32, R94: a legal write of offset 0x00 is a write of CMD. -/
theorem runAccess_of_cmdWrite (hlegal : a.isLegal = true) (hwrite : a.write = true) (hoff : a.off = 0x00#6) :
    runAccess a s = exec (.wrCmd a.data) s := by
  obtain ⟨write, off, size, data⟩ := a
  obtain ⟨hsize, -⟩ : size = 4 ∧ _ := by simpa only [Access.isLegal, Bool.and_eq_true, decide_eq_true_eq] using hlegal
  subst hwrite hoff hsize
  simp [runAccess, Access.pattern, decodeBus]

end

/-! ### The error flags (R34, R217) -/

/-- The three error flags are in `t` as in `s`. -/
def SameFlags (s t : State) : Prop := t.errOvf = s.errOvf ∧ t.errCmd = s.errCmd ∧ t.errBusy = s.errBusy

/-- How many error flags are set in `t` and not in `s`. -/
def newFlagCount (s t : State) : Nat :=
  (t.errOvf && !s.errOvf).toNat + (t.errCmd && !s.errCmd).toNat + (t.errBusy && !s.errBusy).toNat

section
variable {s t : State} {w : Word}

/-- R217: entering an error sets its own flag and no other. -/
theorem newFlagCount_enterError_le_one (e : ErrorKind) (s : State) : newFlagCount s (enterError e s) ≤ 1 := by
  cases e <;> simp [newFlagCount, enterError, Bool.toNat_le]

/-! ### One access (R121, R122, R126, R127) -/

/-- An accepted word enters at most one error; NOP, INIT and CLRERR enter none. -/
theorem newFlagCount_le_one_of_decodeAndExecute (h : decodeAndExecute w s = .next t) : newFlagCount s t ≤ 1 := by
  obtain ⟨heq, -⟩ | ⟨heq, -⟩ | ⟨nb, heq, -⟩ | ⟨heq, -⟩ | ⟨heq, -⟩ | heq := decodeAndExecute_cases w s <;>
    rw [heq] at h
  · cases h
    simp [newFlagCount]
  · cases h
    simp [newFlagCount, startMessage_eq]
  · obtain ⟨-, rfl⟩ | ⟨-, -, rfl⟩ | ⟨-, -, rfl⟩ := acceptAbsorb_next h
    · exact newFlagCount_enterError_le_one .cmd s
    · exact newFlagCount_enterError_le_one .ovf s
    · simp [newFlagCount]
  · obtain ⟨-, rfl⟩ | ⟨-, rfl⟩ := acceptFinal_next h
    · exact newFlagCount_enterError_le_one .cmd s
    · simp [newFlagCount]
  · cases h
    simp [newFlagCount, clearCommandErrors_eq]
  · cases h
    exact newFlagCount_enterError_le_one .cmd s

/-- Dropped while busy, the word is not looked at, so ERR_BUSY comes alone. -/
theorem newFlagCount_le_one_of_exec_wrCmd (h : exec (.wrCmd w) s = .next t) : newFlagCount s t ≤ 1 := by
  obtain ⟨-, rfl⟩ | ⟨-, heffect⟩ := presentCommand_next h
  · exact newFlagCount_enterError_le_one .busy s
  · exact newFlagCount_le_one_of_decodeAndExecute heffect

/-- R216: one access never sets two flags. -/
theorem newFlagCount_le_one_of_runAccess {a : Access} (h : runAccess a s = .next t) : newFlagCount s t ≤ 1 := by
  obtain ⟨-, i, hi, hexec⟩ := runAccess_next h
  obtain rfl | rfl | ⟨v, rfl⟩ := exec_of_decodeBus_cases hi hexec
  · exact newFlagCount_le_one_of_exec_wrCmd hexec
  · simp [newFlagCount]
  · simp [newFlagCount]

/-! ### The engine's turn -/

theorem sameFlags_of_padByte {b : Byte} (h : padByte b s = .next t) : SameFlags s t := by
  obtain ⟨-, u, r, rfl, -⟩ := padByte_next h
  exact ⟨rfl, rfl, rfl⟩

/-- No arm of a micro-operation writes a flag. -/
theorem sameFlags_of_runMicro_of_busy (hbusy : s.busy = true) (h : runMicro s = .next t) : SameFlags s t := by
  obtain hu | hu | hu | hu | hu | hu | hu := State.busy_cases hbusy
  · rw [runMicro_absByte hu] at h
    obtain ⟨-, -, -, u, r, rfl, -⟩ := execAbsByte_next h
    exact ⟨rfl, rfl, rfl⟩
  · rw [runMicro_cmpLoad hu] at h
    cases h
    exact ⟨rfl, rfl, rfl⟩
  · rw [runMicro_cmpStep hu, roundOp_eq] at h
    cases h
    exact ⟨rfl, rfl, rfl⟩
  · rw [runMicro_cmpAcc hu] at h
    obtain ⟨u, rfl, -⟩ := execCmpAcc_next h
    exact ⟨rfl, rfl, rfl⟩
  · rw [runMicro_pad80 hu] at h
    exact sameFlags_of_padByte h
  · rw [runMicro_padZero hu] at h
    exact sameFlags_of_padByte h
  · rw [runMicro_padLen hu] at h
    cases h
    exact ⟨rfl, rfl, rfl⟩

/-- R216: no micro-step raises an error, and outside the ten micro-states none answers. -/
theorem sameFlags_of_runMicro (h : runMicro s = .next t) : SameFlags s t := by
  rcases Nat.lt_or_ge 9 s.ustate.toNat with hillegal | hlegal
  · rw [runMicro_unreachable hillegal] at h
    cases h
  · obtain hbusy | hidle := (UState.legal_iff s.ustate).2 hlegal
    · exact sameFlags_of_runMicro_of_busy hbusy h
    · rw [runMicro_idle hidle] at h
      cases h
      exact ⟨rfl, rfl, rfl⟩

end

/-! ### The obligations -/

/-- Settles O48: a legal write of CMD runs WR_CMD's arm, which checks busy, then the word, then the phase, then the
count; of the flags, an access enters at most one error and a turn none. -/
theorem oneAccessReportsOneError : Obligations.OneAccessReportsOneError := by
  intro s t a
  refine ⟨fun hlegal => runAccess_of_not_legal hlegal s, fun hlegal hwrite hoff => ?_,
    newFlagCount_le_one_of_runAccess, sameFlags_of_runMicro⟩
  rw [runAccess_of_cmdWrite hlegal hwrite hoff]
  refine ⟨exec_wrCmd_of_busy, exec_wrCmd_of_not_mem, fun hidle hphase hop => ?_, fun hready hw hop hlt => ?_⟩
  · by_cases hw : a.data ∈ legalCommandWords
    · exact exec_wrCmd_of_not_ready hidle hphase hw hop
    · exact exec_wrCmd_of_not_mem hidle hw
  · rw [exec_wrCmd_of_decodeCmd (decodeCmd_of_op_two a.data hw hop), exec_absorb_of_ready_of_lt hready hlt]

end Sys2Proof.Machine
end

section
/-! Encodings (30_encoding.md R90-R96): an instruction's encoding decodes to it, an encoding that decodes is well-formed
and is the instruction's own up to its free bits, and a placed encoding is the next step's instruction. -/

namespace Sys2Proof.Machine

/-! ### The encoder then the decoder -/

/-- R95: the round field of a step micro-operation's word selects the row, its position field is the operand. -/
theorem decodeUop_stepWord (r : BitVec 2) (j : BitVec 4) :
    decodeUop (uopWord UState.cmpStep (r ++ j)) = .ok (stepInstr r j) := by
  revert r j
  decide

/-- R91: NBM1 holds every count that ABSORB admits. -/
theorem decodeCmd_encode_absorb {nb : Nat} (hpos : 1 ≤ nb) (hle : nb ≤ 4) :
    decodeCmd (cmdWord 0x2#4 (BitVec.ofNat 2 (nb - 1))) = .ok (.absorb nb) := by
  interval_cases nb <;> rfl

theorem absorb_wellFormed_iff (nb : Nat) : WellFormed (.absorb nb) ↔ 1 ≤ nb ∧ nb ≤ 4 := by
  simp [WellFormed, Instr.wellFormed]

/-! ### The decoder then the encoder, by format -/

theorem encode_of_decodeCmd {w : Word} {i : Instr} (h : decodeCmd w = .ok i) : WellFormed i ∧ encode i = .cmd w := by
  have hw : w ∈ legalCommandWords := (exists_decodeCmd_eq_ok_iff w).1 ⟨i, h⟩
  simp only [legalCommandWords, List.mem_cons, List.not_mem_nil, or_false] at hw
  obtain rfl | rfl | rfl | rfl | rfl | rfl | rfl | rfl := hw <;> cases h <;> exact ⟨rfl, rfl⟩

/-- R94's ten patterns, each with its instruction. -/
theorem decodeBus_ok_iff {p : BitVec 7} {d : Word} {i : Instr} :
    decodeBus p d = .ok i ↔ (p, i) ∈
      [(0b1000000#7, Instr.wrCmd d), (0b0000100#7, .rdStatus), (0b1001000#7, .wrDin d), (0b0001000#7, .rdDin),
        (0b0010000#7, .rdLenLo), (0b0010100#7, .rdLenHi), (0b0100000#7, .rdDigest0), (0b0100100#7, .rdDigest1),
        (0b0101000#7, .rdDigest2), (0b0101100#7, .rdDigest3)] := by
  simp only [List.mem_cons, Prod.mk.injEq, List.not_mem_nil, or_false]
  constructor
  · intro h
    simp only [decodeBus] at h
    split_ifs at h <;> cases h <;> simp [*]
  · rintro (⟨rfl, rfl⟩ | ⟨rfl, rfl⟩ | ⟨rfl, rfl⟩ | ⟨rfl, rfl⟩ | ⟨rfl, rfl⟩ | ⟨rfl, rfl⟩ | ⟨rfl, rfl⟩ | ⟨rfl, rfl⟩ |
      ⟨rfl, rfl⟩ | ⟨rfl, rfl⟩) <;> rfl

/-- A write's datum is its operand; a read's is free. -/
theorem encode_of_decodeBus {p : BitVec 7} {d : Word} {i : Instr} (h : decodeBus p d = .ok i) :
    WellFormed i ∧ encode i = (Encoded.bus p d).cared := by
  have hrow := decodeBus_ok_iff.1 h
  simp only [List.mem_cons, Prod.mk.injEq, List.not_mem_nil, or_false] at hrow
  obtain ⟨rfl, rfl⟩ | ⟨rfl, rfl⟩ | ⟨rfl, rfl⟩ | ⟨rfl, rfl⟩ | ⟨rfl, rfl⟩ | ⟨rfl, rfl⟩ | ⟨rfl, rfl⟩ | ⟨rfl, rfl⟩ |
    ⟨rfl, rfl⟩ | ⟨rfl, rfl⟩ := hrow <;> exact ⟨rfl, rfl⟩

/-- A UOP word is its three fields: USTATE, round, position. -/
theorem uopWord_fields (u : BitVec 10) :
    uopWord (u.extractLsb' 6 4) (u.extractLsb' 4 2 ++ u.extractLsb' 0 4) = u := by
  apply BitVec.eq_of_getLsbD_eq
  intro k hk
  simp only [uopWord, BitVec.getLsbD_append, BitVec.getLsbD_extractLsb']
  split_ifs with hstep hposition
  · simp [hposition]
  · simp [show k - 4 < 2 by omega, show 4 + (k - 4) = k by omega]
  · simp [show k - 6 < 4 by omega, show 6 + (k - 6) = k by omega]

theorem encode_stepInstr (r : BitVec 2) (j : BitVec 4) :
    WellFormed (stepInstr r j) ∧ encode (stepInstr r j) = .uop (uopWord UState.cmpStep (r ++ j)) := by
  have hr : r = 0#2 ∨ r = 1#2 ∨ r = 2#2 ∨ r = 3#2 := by revert r; decide
  obtain rfl | rfl | rfl | rfl := hr <;> exact ⟨rfl, rfl⟩

/-- STEP is an operand in U_CMP_STEP and free elsewhere (R95). -/
theorem encode_of_decodeUop {u : BitVec 10} {i : Instr} (h : decodeUop u = .ok i) :
    WellFormed i ∧ encode i = (Encoded.uop u).cared := by
  by_cases hstep : u.extractLsb' 6 4 = UState.cmpStep
  · have hi : stepInstr (u.extractLsb' 4 2) (u.extractLsb' 0 4) = i := by
      simpa [decodeUop, hstep] using h
    rw [← hi, Encoded.cared, if_pos hstep]
    conv in Encoded.uop u => rw [← uopWord_fields u, hstep]
    exact encode_stepInstr _ _
  · rw [Encoded.cared, if_neg hstep]
    simp only [decodeUop, if_neg hstep] at h
    split_ifs at h with h1 h2 h3 h4 h5 h6
    · cases h; exact ⟨rfl, by rw [h1]; rfl⟩
    · cases h; exact ⟨rfl, by rw [h2]; rfl⟩
    · cases h; exact ⟨rfl, by rw [h3]; rfl⟩
    · cases h; exact ⟨rfl, by rw [h4]; rfl⟩
    · cases h; exact ⟨rfl, by rw [h5]; rfl⟩
    · cases h; exact ⟨rfl, by rw [h6]; rfl⟩

/-! ### A legal access and its instruction (R62, R94, R120) -/

section
variable {a : Access} {i : Instr}

/-- R62's ten pairs are R94's ten patterns. -/
theorem exists_decodeBus_eq_ok_of_isLegal (hlegal : a.isLegal = true) :
    ∃ i, decodeBus a.pattern a.data = .ok i := by
  obtain ⟨write, off, size, data⟩ := a
  simp only [Access.isLegal, legalPairs, Bool.and_eq_true, decide_eq_true_eq, List.elem_iff, List.mem_cons,
    Prod.mk.injEq, List.not_mem_nil, or_false] at hlegal
  obtain ⟨-, hpair⟩ := hlegal
  obtain ⟨rfl, rfl⟩ | ⟨rfl, rfl⟩ | ⟨rfl, rfl⟩ | ⟨rfl, rfl⟩ | ⟨rfl, rfl⟩ | ⟨rfl, rfl⟩ | ⟨rfl, rfl⟩ | ⟨rfl, rfl⟩ |
    ⟨rfl, rfl⟩ | ⟨rfl, rfl⟩ := hpair <;> simp [Access.pattern, decodeBus]

theorem Access.size_of_isLegal (hlegal : a.isLegal = true) : a.size = 4 := by
  rw [Access.isLegal, Bool.and_eq_true, decide_eq_true_eq] at hlegal
  exact hlegal.1

theorem aligned_of_legalPair : ∀ (w : Bool) (off : BitVec 6), legalPairs.elem (w, off) = true → off.toNat % 4 = 0 := by
  decide

/-- A 4-byte access whose pattern decodes is aligned, so it runs what it decodes to. -/
theorem runAccess_of_decodeBus (hsize : a.size = 4) (hi : decodeBus a.pattern a.data = .ok i) (s : State) :
    runAccess a s = exec i s := by
  have hpair : legalPairs.elem (a.write, a.off) = true := by
    by_contra hnot
    rw [Access.pattern, decodeBus_of_not_legalPair (Bool.eq_false_iff.2 hnot)] at hi
    cases hi
  have hshape : ¬ (a.size ≠ 4 ∨ a.off.toNat % 4 ≠ 0) := by simp [hsize, aligned_of_legalPair _ _ hpair]
  rw [runAccess, if_neg hshape, hi]

end

/-! ### Where an encoding is placed (log 13) -/

section
variable {s : State} {i : Instr}

theorem decodeTableWord_eq_some {nbits w : Nat} (h : decodeTableWord nbits w = some i) :
    ∃ e, encodedOfTable nbits w = some e ∧ decode e = .ok i := by
  unfold decodeTableWord at h
  split at h
  · cases h
  · split at h
    · cases h; exact ⟨_, ‹_›, ‹_›⟩
    · cases h

theorem encodedOfTable_of_uopWidth {nbits w : Nat} {e : Encoded} (hwidth : nbits = 16 ∨ nbits = 10)
    (h : encodedOfTable nbits w = some e) : e = .uop (BitVec.ofNat 10 w) := by
  obtain rfl | rfl := hwidth <;> simp [encodedOfTable] at h <;> exact h.2.symm

theorem encodedOfTable_ne_uop {nbits w : Nat} {e : Encoded} (h16 : nbits ≠ 16) (h10 : nbits ≠ 10)
    (h : encodedOfTable nbits w = some e) (u : BitVec 10) : e ≠ .uop u := by
  simp only [encodedOfTable, h16, h10, or_self, if_false] at h
  split_ifs at h <;> cases h <;> simp

theorem withFetchWord_of_encodedOfTable {nbits w : Nat} {e : Encoded} (h : encodedOfTable nbits w = some e) :
    s.withFetchWord nbits w = placeEncoded e s := by
  rw [State.withFetchWord, placeTableWord, h]

theorem step_placeEncoded_cmd {w : Word} (h : decodeCmd w = .ok i) : step (placeEncoded (.cmd w) s) = exec i s :=
  (runAccess_of_cmdWrite (a := commandAccess w) rfl rfl rfl).trans (exec_wrCmd_of_decodeCmd h s)

theorem patternAccess_pattern (p : BitVec 7) (d : Word) : (patternAccess p d).pattern = p := by
  have hbits : ∀ p : BitVec 7, BitVec.ofBool (p.getLsbD 6) ++ p.extractLsb' 0 6 = p := by decide
  exact hbits p

theorem step_placeEncoded_bus {p : BitVec 7} {d : Word} (h : decodeBus p d = .ok i) :
    step (placeEncoded (.bus p d) s) = exec i s :=
  runAccess_of_decodeBus (a := patternAccess p d) rfl (by rwa [patternAccess_pattern]) s

/-- The PCNT that placing the UOP word `u` leaves: ABS_BYTE is selected only with a pending byte (R151). -/
def placedPcnt (u : BitVec 10) (s : State) : BitVec 3 :=
  if u.extractLsb' 6 4 = UState.absByte ∧ (s.pcnt.toNat < 1 ∨ 4 < s.pcnt.toNat) then 1#3 else s.pcnt

theorem placedPcnt_of_ne_absByte {u : BitVec 10} (h : decodeUop u = .ok i) (hi : i ≠ .absByte) :
    placedPcnt u s = s.pcnt := by
  rw [placedPcnt, if_neg]
  rintro ⟨hu, -⟩
  rw [decodeUop, hu] at h
  exact hi (Except.ok.inj h).symm

theorem placeEncoded_uop (u : BitVec 10) (s : State) :
    placeEncoded (.uop u) s = { s with
      agenda := .micro :: s.agenda, ustate := u.extractLsb' 6 4, stepCtr := u.extractLsb' 0 6
      pcnt := placedPcnt u s } := by
  simp only [placeEncoded, placedPcnt]
  split_ifs <;> rfl

theorem uopWord_ustate_step (u : BitVec 10) : uopWord (u.extractLsb' 6 4) (u.extractLsb' 0 6) = u := by
  have hstep : u.extractLsb' 4 2 ++ u.extractLsb' 0 4 = u.extractLsb' 0 6 :=
    BitVec.extractLsb'_append_extractLsb'_eq_extractLsb' rfl
  rw [← hstep, uopWord_fields]

theorem step_placeEncoded_uop {u : BitVec 10} (h : decodeUop u = .ok i) :
    step (placeEncoded (.uop u) s) =
      exec i { s with ustate := u.extractLsb' 6 4, stepCtr := u.extractLsb' 0 6, pcnt := placedPcnt u s } := by
  rw [placeEncoded_uop, step_cons rfl]
  simp only [runEvent, runMicro, State.uop, uopWord_ustate_step, h]

theorem ustate_of_ofNat (w : Nat) : (BitVec.ofNat 10 w).extractLsb' 6 4 = BitVec.ofNat 4 (w / 64) := by
  apply BitVec.eq_of_toNat_eq
  simp only [BitVec.extractLsb'_toNat, BitVec.toNat_ofNat, Nat.shiftRight_eq_div_pow]
  omega

theorem step_of_ofNat (w : Nat) : (BitVec.ofNat 10 w).extractLsb' 0 6 = BitVec.ofNat 6 w := by
  apply BitVec.eq_of_toNat_eq
  simp only [BitVec.extractLsb'_toNat, BitVec.toNat_ofNat, Nat.shiftRight_zero]
  omega

end

/-! ### The obligations -/

/-- Settles O1: the rows without operand by evaluation, the others by their operand's field. -/
theorem decodeOfEncodeIsTheInstruction : Obligations.DecodeOfEncodeIsTheInstruction := by
  intro i hi
  cases i with
  | absorb nb =>
    obtain ⟨hpos, hle⟩ := (absorb_wellFormed_iff nb).1 hi
    exact decodeCmd_encode_absorb hpos hle
  | stepF j => exact decodeUop_stepWord 0#2 j
  | stepG j => exact decodeUop_stepWord 1#2 j
  | stepH j => exact decodeUop_stepWord 2#2 j
  | stepI j => exact decodeUop_stepWord 3#2 j
  | _ => rfl

/-- Settles O2, by format. -/
theorem encodeOfDecodeIsTheWord : Obligations.EncodeOfDecodeIsTheWord := by
  intro e i h
  cases e with
  | cmd w => exact encode_of_decodeCmd h
  | bus p d => exact encode_of_decodeBus h
  | uop u => exact encode_of_decodeUop h

/-- Settles O4: eleven closed words, each evaluated. -/
theorem sampleWordsDecode : Obligations.SampleWordsDecode := by
  unfold Obligations.SampleWordsDecode
  decide

/-- Settles O5: the ten legal pairs decode, and the dispatch runs what they decode to; any other is refused there. -/
theorem stepServesTheHostAccess : Obligations.StepServesTheHostAccess := by
  intro s a rest hagenda
  rw [step_cons hagenda]
  refine ⟨fun hlegal => runAccess_of_not_legal hlegal _, fun hlegal => ?_⟩
  obtain ⟨i, hi⟩ := exists_decodeBus_eq_ok_of_isLegal hlegal
  exact ⟨i, (encode_of_decodeBus hi).1, hi, runAccess_of_decodeBus (Access.size_of_isLegal hlegal) hi _⟩

/-- Settles O8: by the format that the width selects. -/
theorem placedTableWordRunsNext : Obligations.PlacedTableWordRunsNext := by
  intro s nbits w i h
  obtain ⟨e, hencoded, hi⟩ := decodeTableWord_eq_some h
  rw [withFetchWord_of_encodedOfTable hencoded]
  refine ⟨fun h16 h10 => ?_, fun hwidth => ?_⟩
  · cases e with
    | cmd w => exact step_placeEncoded_cmd hi
    | bus p d => exact step_placeEncoded_bus hi
    | uop u => exact absurd rfl (encodedOfTable_ne_uop h16 h10 hencoded u)
  · obtain rfl := encodedOfTable_of_uopWidth hwidth hencoded
    refine ⟨placedPcnt (BitVec.ofNat 10 w) s, placedPcnt_of_ne_absByte hi, ?_⟩
    rw [step_placeEncoded_uop hi, ustate_of_ofNat, step_of_ofNat]

end Sys2Proof.Machine
end

section
/-! The engine's invariant (10_state.md R24-R29, 41_padder_buffer.md R160): what it says in each micro-state, that reset
meets it and every step keeps it, and that under it only an illegal access stops. -/

namespace Sys2Proof.Machine

/-! ### FILL, PCNT and MCNT, by micro-state -/

section
variable {s : State}

theorem countsAgree_of_ready (h : s.ustate = UState.ready) :
    countsAgree s ↔ s.pcnt = 0#3 ∧ s.fill.toNat = s.mcnt.toNat % 64 := by
  simp [countsAgree, h]

theorem countsAgree_of_error (h : s.ustate = UState.error) :
    countsAgree s ↔ s.pcnt = 0#3 ∧ s.fill.toNat = s.mcnt.toNat % 64 := by
  simp [countsAgree, h]

theorem countsAgree_of_pad80 (h : s.ustate = UState.pad80) :
    countsAgree s ↔ s.pcnt = 0#3 ∧ s.fill.toNat = s.mcnt.toNat % 64 := by
  simp [countsAgree, h]

theorem countsAgree_of_absByte (h : s.ustate = UState.absByte) :
    countsAgree s ↔ 1 ≤ s.pcnt.toNat ∧ s.pcnt.toNat ≤ 4 ∧ s.fill.toNat ≤ 63 ∧
      (s.fill.toNat + s.pcnt.toNat) % 64 = s.mcnt.toNat % 64 := by
  simp [countsAgree, h]

theorem isCompress_iff (u : BitVec 4) :
    UState.isCompress u = true ↔ u = UState.cmpLoad ∨ u = UState.cmpStep ∨ u = UState.cmpAcc := by
  revert u; decide

theorem countsAgree_of_compress (h : UState.isCompress s.ustate = true) :
    countsAgree s ↔ s.fill = 64#7 ∧
      (s.ret = Ret.abs → s.pcnt.toNat ≤ 3 ∧ s.pcnt.toNat = s.mcnt.toNat % 64) ∧ (s.ret ≠ Ret.abs → s.pcnt = 0#3) := by
  have hrest : (s.ustate = UState.ready ∨ s.ustate = UState.error ∨ s.ustate = UState.pad80) = False ∧
      (s.ustate = UState.absByte) = False := by
    rcases (isCompress_iff _).1 h with hu | hu | hu <;> simp [hu]
  by_cases hret : s.ret = Ret.abs <;> simp [countsAgree, h, hret, hrest]

theorem countsAgree_of_padZero (h : s.ustate = UState.padZero) :
    countsAgree s ↔ s.pcnt = 0#3 ∧ s.fill.toNat ≤ 63 ∧ s.fill ≠ 56#7 := by
  simp [countsAgree, h, UState.isCompress]

theorem countsAgree_of_padLen (h : s.ustate = UState.padLen) : countsAgree s ↔ s.pcnt = 0#3 ∧ s.fill = 56#7 := by
  simp [countsAgree, h, UState.isCompress]

theorem countsAgree_of_done (h : s.ustate = UState.done) : countsAgree s ↔ s.pcnt = 0#3 ∧ s.fill = 0#7 := by
  simp [countsAgree, h, UState.isCompress]

end

/-! ### Reset, and what the invariant does not depend on -/

/-- Settles O42: in U_READY, with every count 0. -/
theorem resetStateMeetsTheInvariant : Obligations.ResetStateMeetsTheInvariant where
  bufWf := Memory.wf_nil
  ustateLegal := .inr rfl
  retLegal := .inl rfl
  counts := (countsAgree_of_ready rfl).2 ⟨rfl, rfl⟩
  overflow := by decide

/-- The parts of the state that the invariant reads are in `t` as in `s`. -/
def SameCounts (s t : State) : Prop :=
  (t.buf, t.fill, t.mcnt, t.pcnt, t.ustate, t.ret, t.errOvf) =
    (s.buf, s.fill, s.mcnt, s.pcnt, s.ustate, s.ret, s.errOvf)

section
variable {s t : State}

theorem Inv.of_sameCounts (hinv : Inv s) (h : SameCounts s t) : Inv t := by
  simp only [SameCounts, Prod.mk.injEq] at h
  obtain ⟨hbuf, hfill, hmcnt, hpcnt, hustate, hret, hovf⟩ := h
  obtain ⟨bufWf, ustateLegal, retLegal, counts, overflow⟩ := hinv
  constructor
  · rwa [hbuf]
  · rwa [State.busy, State.idle, hustate]
  · rwa [hret]
  · rwa [countsAgree, hustate, hpcnt, hfill, hmcnt, hret]
  · rw [hovf, hustate, overflow]

/-! ### The engine's turn keeps the invariant -/

/-- Outside U_ERROR the flag is clear. -/
theorem Inv.errOvf_eq_false (hinv : Inv s) (h : s.ustate ≠ UState.error) : s.errOvf = false :=
  Bool.eq_false_iff.2 fun hovf => h (hinv.overflow.1 hovf)

theorem UState.legal_of_ne_error {u : BitVec 4} (h : u.toNat ≤ 8) :
    (UState.isBusy u = true ∨ UState.isIdle u = true) ∧ u ≠ UState.error := by
  refine ⟨(UState.legal_iff u).2 (by omega), ?_⟩
  rintro rfl
  exact absurd h (by decide)

/-- A turn into a micro-state other than U_ERROR: the buffer, RET and the counts remain to be shown. -/
theorem Inv.of_engine (hovf : t.errOvf = false) (hustate : t.ustate.toNat ≤ 8) (hbuf : t.buf.wf)
    (hret : t.ret = Ret.abs ∨ t.ret = Ret.pad ∨ t.ret = Ret.done) (hcounts : countsAgree t) : Inv t where
  bufWf := hbuf
  ustateLegal := (UState.legal_of_ne_error hustate).1
  retLegal := hret
  counts := hcounts
  overflow := by simp [hovf, (UState.legal_of_ne_error hustate).2]

theorem pcnt_pred_toNat {c : BitVec 3} (hpos : 1 ≤ c.toNat) : (c - 1#3).toNat = c.toNat - 1 := by
  rw [BitVec.toNat_sub_of_le (by rw [BitVec.le_def]; simpa using hpos)]
  rfl

theorem Inv.execAbsByte (hinv : Inv s) (hu : s.ustate = UState.absByte) (h : execAbsByte s = .next t) : Inv t := by
  have hovf : s.errOvf = false := hinv.errOvf_eq_false (by simp [hu])
  obtain ⟨-, -, -, hmod⟩ := (countsAgree_of_absByte hu).1 hinv.counts
  obtain ⟨hpos, hle, hfill, u, r, rfl, hcase⟩ := execAbsByte_next h
  have hbuf := Memory.wf_write hinv.bufWf (i := s.fill.toNat) (by rw [bufBytes]; omega) (byteOf 0 s.pend)
  have hpcnt := pcnt_pred_toNat hpos
  have hsucc := fill_succ_toNat hfill
  obtain ⟨hfull, rfl, rfl⟩ | ⟨hroom, hlast, rfl, rfl⟩ | ⟨hroom, hmore, rfl, rfl⟩ := hcase
  · refine Inv.of_engine hovf (by simp) hbuf (.inl rfl) ((countsAgree_of_compress rfl).2 ⟨?_, fun _ => ?_, ?_⟩)
    · exact (fill_succ_eq_iff hfill 64 (by omega)).2 (by omega)
    · simp only [hpcnt]; omega
    · exact fun hne => absurd rfl hne
  · refine Inv.of_engine hovf (by simp) hbuf hinv.retLegal ((countsAgree_of_ready rfl).2 ⟨?_, ?_⟩)
    · simp [hlast]
    · simp only [hsucc]
      simp [hlast] at hmod
      omega
  · refine Inv.of_engine hovf (by simp) hbuf hinv.retLegal ((countsAgree_of_absByte rfl).2 ?_)
    have hne : s.pcnt.toNat ≠ 1 := fun h1 => hmore (BitVec.eq_of_toNat_eq h1)
    simp only [hsucc, hpcnt]
    omega

/-- PAD_80 and PAD_ZERO, whichever the byte: with no beat pending and FILL not at the length field. -/
theorem Inv.padByte {b : Byte} (hinv : Inv s) (hovf : s.errOvf = false) (hpcnt : s.pcnt = 0#3)
    (h : padByte b s = .next t) : Inv t := by
  obtain ⟨hfill, u, r, rfl, hcase⟩ := padByte_next h
  have hbuf := Memory.wf_write hinv.bufWf (i := s.fill.toNat) (by rw [bufBytes]; omega) b
  have hsucc := fill_succ_eq_iff hfill
  obtain ⟨hfull, rfl, rfl⟩ | ⟨hfield, rfl, rfl⟩ | ⟨hroom, hne, rfl, rfl⟩ := hcase
  · refine Inv.of_engine hovf (by simp) hbuf (.inr (.inl rfl))
      ((countsAgree_of_compress rfl).2 ⟨?_, ?_, fun _ => hpcnt⟩)
    · exact (hsucc 64 (by omega)).2 (by omega)
    · exact fun habs => absurd habs (by simp)
  · exact Inv.of_engine hovf (by simp) hbuf hinv.retLegal
      ((countsAgree_of_padLen rfl).2 ⟨hpcnt, (hsucc 56 (by omega)).2 (by omega)⟩)
  · refine Inv.of_engine hovf (by simp) hbuf hinv.retLegal ((countsAgree_of_padZero rfl).2 ⟨hpcnt, ?_, ?_⟩)
    · simp only [fill_succ_toNat hfill]; omega
    · exact fun h56 => hne (by have := (hsucc 56 (by omega)).1 h56; omega)

theorem Inv.execCmpAcc (hinv : Inv s) (hu : s.ustate = UState.cmpAcc) (h : execCmpAcc s = .next t) : Inv t := by
  have hovf : s.errOvf = false := hinv.errOvf_eq_false (by simp [hu])
  obtain ⟨-, habs, hother⟩ := (countsAgree_of_compress (by rw [hu]; rfl)).1 hinv.counts
  obtain ⟨u, rfl, hcase⟩ := execCmpAcc_next h
  obtain ⟨hret, rfl⟩ | ⟨hret, rfl⟩ | ⟨hret, hpos, -, rfl⟩ | ⟨hret, hzero, rfl⟩ := hcase
  · exact Inv.of_engine hovf (by simp) hinv.bufWf hinv.retLegal
      ((countsAgree_of_done rfl).2 ⟨hother (by simp [hret]), rfl⟩)
  · exact Inv.of_engine hovf (by simp) hinv.bufWf hinv.retLegal
      ((countsAgree_of_padZero rfl).2 ⟨hother (by simp [hret]), by simp, by simp⟩)
  · obtain ⟨hle, hmod⟩ := habs hret
    refine Inv.of_engine hovf (by simp) hinv.bufWf hinv.retLegal ((countsAgree_of_absByte rfl).2 ?_)
    simp only [BitVec.toNat_ofNat]
    omega
  · obtain ⟨-, hmod⟩ := habs hret
    exact Inv.of_engine hovf (by simp) hinv.bufWf hinv.retLegal
      ((countsAgree_of_ready rfl).2 ⟨hzero, by simpa [hzero] using hmod⟩)

/-- A micro-step within the compression keeps FILL, PCNT, MCNT and RET. -/
theorem Inv.within_compress (hinv : Inv s) (hu : UState.isCompress s.ustate = true)
    (ht : UState.isCompress t.ustate = true)
    (h : (t.buf, t.fill, t.mcnt, t.pcnt, t.ret, t.errOvf) = (s.buf, s.fill, s.mcnt, s.pcnt, s.ret, s.errOvf)) :
    Inv t := by
  simp only [Prod.mk.injEq] at h
  obtain ⟨hbuf, hfill, hmcnt, hpcnt, hret, hovf⟩ := h
  have hbound : ∀ u, UState.isCompress u = true → u.toNat ≤ 8 := by decide
  have hne : s.ustate ≠ UState.error := (UState.legal_of_ne_error (hbound _ hu)).2
  refine Inv.of_engine (hovf.trans (hinv.errOvf_eq_false hne)) (hbound _ ht) (hbuf ▸ hinv.bufWf)
    (hret ▸ hinv.retLegal) ((countsAgree_of_compress ht).2 ?_)
  rw [hfill, hret, hpcnt, hmcnt]
  exact (countsAgree_of_compress hu).1 hinv.counts

theorem Inv.runMicro (hinv : Inv s) (h : runMicro s = .next t) : Inv t := by
  rcases hinv.ustateLegal with hbusy | hidle
  · obtain hu | hu | hu | hu | hu | hu | hu := State.busy_cases hbusy
    · exact hinv.execAbsByte hu (by rwa [runMicro_absByte hu] at h)
    · rw [runMicro_cmpLoad hu] at h
      cases h
      exact hinv.within_compress (by rw [hu]; rfl) rfl rfl
    · rw [runMicro_cmpStep hu, roundOp_eq] at h
      cases h
      refine hinv.within_compress (by rw [hu]; rfl) ?_ rfl
      simp only [hu]
      split_ifs <;> rfl
    · exact hinv.execCmpAcc hu (by rwa [runMicro_cmpAcc hu] at h)
    · exact hinv.padByte (hinv.errOvf_eq_false (by simp [hu])) ((countsAgree_of_pad80 hu).1 hinv.counts).1
        (by rwa [runMicro_pad80 hu] at h)
    · exact hinv.padByte (hinv.errOvf_eq_false (by simp [hu])) ((countsAgree_of_padZero hu).1 hinv.counts).1
        (by rwa [runMicro_padZero hu] at h)
    · rw [runMicro_padLen hu] at h
      cases h
      refine Inv.of_engine (hinv.errOvf_eq_false (by simp [hu])) (by simp [startCompression]) ?_ (.inr (.inr rfl))
        ((countsAgree_of_compress rfl).2 ⟨rfl, ?_, fun _ => ((countsAgree_of_padLen hu).1 hinv.counts).1⟩)
      · exact Memory.wf_writeBytes hinv.bufWf (by simp [bufBytes])
      · exact fun habs => absurd habs (by simp [startCompression])
  · rw [runMicro_idle hidle] at h
    cases h
    exact hinv

/-! ### A host access keeps the invariant -/

theorem Inv.startMessage (hinv : Inv s) : Inv (startMessage s) :=
  Inv.of_engine rfl (by simp [startMessage_eq]) hinv.bufWf hinv.retLegal ((countsAgree_of_ready rfl).2 ⟨rfl, rfl⟩)

theorem Inv.acceptAbsorb {nb : Nat} (hpos : 1 ≤ nb) (hle : nb ≤ 4) (hinv : Inv s) (h : acceptAbsorb nb s = .next t) :
    Inv t := by
  obtain ⟨-, rfl⟩ | ⟨hu, -, rfl⟩ | ⟨hu, hfits, rfl⟩ := acceptAbsorb_next h
  · exact hinv.of_sameCounts rfl
  · exact ⟨hinv.bufWf, .inr rfl, hinv.retLegal,
      (countsAgree_of_error rfl).2 ((countsAgree_of_ready hu).1 hinv.counts), by simp⟩
  · obtain ⟨-, hfill⟩ := (countsAgree_of_ready hu).1 hinv.counts
    refine Inv.of_engine (hinv.errOvf_eq_false (by simp [hu])) (by simp) hinv.bufWf hinv.retLegal
      ((countsAgree_of_absByte rfl).2 ?_)
    have hmcnt : (s.mcnt + BitVec.ofNat 61 nb).toNat = s.mcnt.toNat + nb := by
      simp only [BitVec.toNat_add, BitVec.toNat_ofNat, maxMessageBytes] at *; omega
    have hnb : (BitVec.ofNat 3 nb).toNat = nb := by rw [BitVec.toNat_ofNat]; omega
    simp only [hmcnt, hnb]
    omega

theorem Inv.acceptFinal (hinv : Inv s) (h : acceptFinal s = .next t) : Inv t := by
  obtain ⟨-, rfl⟩ | ⟨hu, rfl⟩ := acceptFinal_next h
  · exact hinv.of_sameCounts rfl
  · exact Inv.of_engine (hinv.errOvf_eq_false (by simp [hu])) (by simp) hinv.bufWf hinv.retLegal
      ((countsAgree_of_pad80 rfl).2 ((countsAgree_of_ready hu).1 hinv.counts))

theorem Inv.decodeAndExecute {w : Word} (hinv : Inv s) (h : decodeAndExecute w s = .next t) : Inv t := by
  obtain ⟨heq, -⟩ | ⟨heq, -⟩ | ⟨nb, heq, hdecode⟩ | ⟨heq, -⟩ | ⟨heq, -⟩ | heq := decodeAndExecute_cases w s <;>
    rw [heq] at h
  · cases h; exact hinv
  · cases h; exact hinv.startMessage
  · obtain ⟨hpos, hle⟩ := (absorb_wellFormed_iff nb).1 (encode_of_decodeCmd hdecode).1
    exact hinv.acceptAbsorb hpos hle h
  · exact hinv.acceptFinal h
  · cases h; exact hinv.of_sameCounts rfl
  · cases h; exact hinv.of_sameCounts rfl

theorem Inv.runAccess {a : Access} (hinv : Inv s) (h : runAccess a s = .next t) : Inv t := by
  obtain ⟨-, i, hi, hexec⟩ := runAccess_next h
  obtain rfl | rfl | ⟨v, rfl⟩ := exec_of_decodeBus_cases hi hexec
  · obtain ⟨-, rfl⟩ | ⟨-, heffect⟩ := presentCommand_next hexec
    · exact hinv.of_sameCounts rfl
    · exact hinv.decodeAndExecute heffect
  · exact hinv.of_sameCounts rfl
  · exact hinv.of_sameCounts rfl

/-! ### Every event keeps the invariant -/

theorem Inv.runEvent {e : Event} (hinv : Inv s) (h : runEvent e s = .next t) : Inv t := by
  cases e with
  | access a => exact hinv.runAccess h
  | micro => exact hinv.runMicro h
  | reset => cases h; exact Inv.of_sameCounts resetStateMeetsTheInvariant rfl

/-! ### Under the invariant every turn and every legal access answers -/

theorem exists_execAbsByte_eq_next (hpos : 1 ≤ s.pcnt.toNat) (hle : s.pcnt.toNat ≤ 4) (hfill : s.fill.toNat ≤ 63) :
    ∃ t, execAbsByte s = .next t := by
  rw [execAbsByte, if_neg (by omega), if_neg (by omega)]
  dsimp only
  split_ifs <;> exact ⟨_, rfl⟩

theorem exists_padByte_eq_next (b : Byte) (hfill : s.fill.toNat ≤ 63) : ∃ t, padByte b s = .next t := by
  rw [padByte, if_neg (by omega)]
  split_ifs <;> exact ⟨_, rfl⟩

theorem exists_execCmpAcc_eq_next (hret : s.ret = Ret.done ∨ s.ret = Ret.pad ∨ (s.ret = Ret.abs ∧ s.pcnt.toNat ≤ 4)) :
    ∃ t, execCmpAcc s = .next t := by
  rcases hret with hret | hret | ⟨hret, hle⟩
  · exact ⟨_, exec_cmpAcc_of_done hret⟩
  · exact ⟨_, exec_cmpAcc_of_pad hret⟩
  · by_cases hzero : s.pcnt = 0#3
    · exact ⟨_, exec_cmpAcc_of_abs_of_zero hret hzero⟩
    · have hpos : s.pcnt.toNat ≠ 0 := fun h => hzero (BitVec.eq_of_toNat_eq h)
      exact ⟨_, exec_cmpAcc_of_abs_of_pos hret (by omega) hle⟩

/-- What CMP_ACC asks of RET and PCNT. -/
theorem Inv.ret_of_compress (hinv : Inv s) (hu : UState.isCompress s.ustate = true) :
    s.ret = Ret.done ∨ s.ret = Ret.pad ∨ (s.ret = Ret.abs ∧ s.pcnt.toNat ≤ 4) := by
  obtain ⟨-, habs, -⟩ := (countsAgree_of_compress hu).1 hinv.counts
  rcases hinv.retLegal with hret | hret | hret
  · exact .inr (.inr ⟨hret, by have := (habs hret).1; omega⟩)
  · exact .inr (.inl hret)
  · exact .inl hret

theorem Inv.fill_of_pad80 (hinv : Inv s) (hu : s.ustate = UState.pad80) : s.fill.toNat ≤ 63 := by
  obtain ⟨-, hfill⟩ := (countsAgree_of_pad80 hu).1 hinv.counts
  omega

theorem Inv.exists_runMicro_eq_next (hinv : Inv s) : ∃ t, Machine.runMicro s = .next t := by
  rcases hinv.ustateLegal with hbusy | hidle
  · obtain hu | hu | hu | hu | hu | hu | hu := State.busy_cases hbusy
    · obtain ⟨hpos, hle, hfill, -⟩ := (countsAgree_of_absByte hu).1 hinv.counts
      rw [runMicro_absByte hu]
      exact exists_execAbsByte_eq_next hpos hle hfill
    · exact ⟨_, runMicro_cmpLoad hu⟩
    · exact ⟨_, runMicro_cmpStep hu⟩
    · rw [runMicro_cmpAcc hu]
      exact exists_execCmpAcc_eq_next (hinv.ret_of_compress (by rw [hu]; rfl))
    · rw [runMicro_pad80 hu]
      exact exists_padByte_eq_next _ (hinv.fill_of_pad80 hu)
    · obtain ⟨-, hfill, -⟩ := (countsAgree_of_padZero hu).1 hinv.counts
      rw [runMicro_padZero hu]
      exact exists_padByte_eq_next _ hfill
    · exact ⟨_, runMicro_padLen hu⟩
  · exact ⟨s, runMicro_idle hidle⟩

/-- FILL is a count in every micro-state, and 64 in the compression alone. -/
theorem Inv.fill_bounds (hinv : Inv s) :
    s.fill.toNat ≤ 64 ∧ (s.fill.toNat = 64 ↔ UState.isCompress s.ustate = true) := by
  obtain ⟨-, hlegal, -, hcounts, -⟩ := hinv
  have hu : UState.isCompress s.ustate = true ∨ s.ustate = UState.absByte ∨ s.ustate = UState.pad80 ∨
      s.ustate = UState.padZero ∨ s.ustate = UState.padLen ∨ s.ustate = UState.ready ∨ s.ustate = UState.done ∨
      s.ustate = UState.error := by
    have key : ∀ u : BitVec 4, UState.isBusy u = true ∨ UState.isIdle u = true → UState.isCompress u = true ∨
        u = UState.absByte ∨ u = UState.pad80 ∨ u = UState.padZero ∨ u = UState.padLen ∨ u = UState.ready ∨
        u = UState.done ∨ u = UState.error := by decide
    exact key _ hlegal
  have hbelow : s.fill.toNat ≤ 63 → UState.isCompress s.ustate = false →
      s.fill.toNat ≤ 64 ∧ (s.fill.toNat = 64 ↔ UState.isCompress s.ustate = true) := by
    intro hle hnot
    rw [hnot]
    exact ⟨by omega, by omega, by simp⟩
  obtain hu | hu | hu | hu | hu | hu | hu | hu := hu
  · obtain ⟨hfill, -⟩ := (countsAgree_of_compress hu).1 hcounts
    simp [hfill, hu]
  · obtain ⟨-, -, hle, -⟩ := (countsAgree_of_absByte hu).1 hcounts
    exact hbelow hle (by rw [hu]; rfl)
  · obtain ⟨-, hmod⟩ := (countsAgree_of_pad80 hu).1 hcounts
    exact hbelow (by omega) (by rw [hu]; rfl)
  · obtain ⟨-, hle, -⟩ := (countsAgree_of_padZero hu).1 hcounts
    exact hbelow hle (by rw [hu]; rfl)
  · obtain ⟨-, hfill⟩ := (countsAgree_of_padLen hu).1 hcounts
    exact hbelow (by simp [hfill]) (by rw [hu]; rfl)
  · obtain ⟨-, hmod⟩ := (countsAgree_of_ready hu).1 hcounts
    exact hbelow (by omega) (by rw [hu]; rfl)
  · obtain ⟨-, hfill⟩ := (countsAgree_of_done hu).1 hcounts
    exact hbelow (by simp [hfill]) (by rw [hu]; rfl)
  · obtain ⟨-, hmod⟩ := (countsAgree_of_error hu).1 hcounts
    exact hbelow (by omega) (by rw [hu]; rfl)

/-- In the three waiting micro-states no beat is pending (R26). -/
theorem Inv.pcnt_of_idle (hinv : Inv s) (hidle : s.idle = true) : s.pcnt = 0#3 := by
  obtain hu | hu | hu := (UState.isIdle_iff _).1 hidle
  · exact ((countsAgree_of_ready hu).1 hinv.counts).1
  · exact ((countsAgree_of_done hu).1 hinv.counts).1
  · exact ((countsAgree_of_error hu).1 hinv.counts).1

theorem Inv.pcnt_le (hinv : Inv s) : s.pcnt.toNat ≤ 4 := by
  have hzero : s.pcnt = 0#3 → s.pcnt.toNat ≤ 4 := fun h => by simp [h]
  rcases hinv.ustateLegal with hbusy | hidle
  · have hcompress : UState.isCompress s.ustate = true → s.pcnt.toNat ≤ 4 := by
      intro hu
      obtain ⟨-, habs, hother⟩ := (countsAgree_of_compress hu).1 hinv.counts
      by_cases hret : s.ret = Ret.abs
      · have := (habs hret).1
        omega
      · exact hzero (hother hret)
    obtain hu | hu | hu | hu | hu | hu | hu := State.busy_cases hbusy
    · exact ((countsAgree_of_absByte hu).1 hinv.counts).2.1
    · exact hcompress (by rw [hu]; rfl)
    · exact hcompress (by rw [hu]; rfl)
    · exact hcompress (by rw [hu]; rfl)
    · exact hzero ((countsAgree_of_pad80 hu).1 hinv.counts).1
    · exact hzero ((countsAgree_of_padZero hu).1 hinv.counts).1
    · exact hzero ((countsAgree_of_padLen hu).1 hinv.counts).1
  · exact hzero (hinv.pcnt_of_idle hidle)

theorem exists_readDigest_eq_next (n : RegName) (hlegal : s.ustate.toNat ≤ 9) : ∃ t, readDigest n s = .next t := by
  by_cases hdone : s.ustate = UState.done
  · exact ⟨_, readDigest_of_done n hdone⟩
  · exact ⟨_, readDigest_of_ne_done n hlegal hdone⟩

theorem Inv.exists_exec_eq_next_of_decodeBus {p : BitVec 7} {d : Word} {i : Instr} (hinv : Inv s)
    (hi : decodeBus p d = .ok i) : ∃ t, exec i s = .next t := by
  have hlegal : s.ustate.toNat ≤ 9 := (UState.legal_iff _).1 hinv.ustateLegal
  obtain rfl | rfl | rfl | rfl | rfl | rfl | rfl | rfl | rfl | rfl := decodeBus_ok_cases hi
  · rcases hinv.ustateLegal with hbusy | hidle
    · exact ⟨_, exec_wrCmd_of_busy hbusy⟩
    · exact exists_exec_wrCmd_eq_next hidle d
  · exact ⟨_, exec_wrDin s d⟩
  · obtain ⟨p, hphase, -⟩ := exists_phase_eq_some _ hlegal
    exact ⟨_, exec_rdStatus_of_phase hphase hinv.fill_bounds.1⟩
  · exact ⟨_, exec_rdDin s⟩
  · exact ⟨_, exec_rdLenLo s⟩
  · exact ⟨_, exec_rdLenHi s⟩
  · exact exists_readDigest_eq_next .A hlegal
  · exact exists_readDigest_eq_next .B hlegal
  · exact exists_readDigest_eq_next .C hlegal
  · exact exists_readDigest_eq_next .D hlegal

theorem Inv.exists_runAccess_eq_next {a : Access} (hinv : Inv s) (hlegal : a.isLegal = true) :
    ∃ t, Machine.runAccess a s = .next t := by
  obtain ⟨i, hi⟩ := exists_decodeBus_eq_ok_of_isLegal hlegal
  rw [runAccess_of_decodeBus (Access.size_of_isLegal hlegal) hi]
  exact hinv.exists_exec_eq_next_of_decodeBus hi

end

/-! ### The obligations -/

/-- Settles O43: the agenda is no part of the invariant, and each kind of event keeps it. -/
theorem stepKeepsTheInvariant : Obligations.StepKeepsTheInvariant := by
  intro s t hinv h
  cases hagenda : s.agenda with
  | nil => exact hinv.runMicro (step_nil hagenda ▸ h)
  | cons e rest =>
    have hinv' : Inv { s with agenda := rest } := hinv.of_sameCounts rfl
    exact hinv'.runEvent (step_cons hagenda ▸ h)

/-- Settles O44: each clause from the counts of its micro-state. -/
theorem invariantBoundsTheCounts : Obligations.InvariantBoundsTheCounts := by
  intro s hinv
  obtain ⟨hle, hfull⟩ := hinv.fill_bounds
  refine ⟨hle, hinv.pcnt_le, hfull.trans (isCompress_iff _), fun hbusy => ?_,
    fun hu => ((countsAgree_of_ready hu).1 hinv.counts).2, hinv.overflow⟩
  have hidle : s.idle = true := hinv.ustateLegal.resolve_left (by simp [hbusy])
  have hnot : UState.isCompress s.ustate = false := by
    obtain hu | hu | hu := (UState.isIdle_iff _).1 hidle <;> rw [hu] <;> rfl
  have hne : s.fill.toNat ≠ 64 := fun h => by rw [hfull, hnot] at h; cases h
  exact ⟨by omega, hinv.pcnt_of_idle hidle⟩

/-- Settles O45: turns and legal accesses answer, reset always does, and an illegal access is a BusError. -/
theorem onlyAnIllegalAccessStops : Obligations.OnlyAnIllegalAccessStops := by
  intro s hinv
  cases hagenda : s.agenda with
  | nil =>
    rw [step_nil hagenda]
    exact .inl hinv.exists_runMicro_eq_next
  | cons e rest =>
    have hinv' : Inv { s with agenda := rest } := hinv.of_sameCounts rfl
    rw [step_cons hagenda]
    cases e with
    | micro => exact .inl hinv'.exists_runMicro_eq_next
    | reset => exact .inl ⟨_, rfl⟩
    | access a =>
      by_cases hlegal : a.isLegal = true
      · exact .inl (hinv'.exists_runAccess_eq_next hlegal)
      · exact .inr ⟨a, rest, rfl, Bool.eq_false_iff.2 hlegal, runAccess_of_not_legal (Bool.eq_false_iff.2 hlegal) _⟩

end Sys2Proof.Machine
end

section
/-! Single steps: the engine's turn and reset (00_scope.md R9, 70_reset_and_hazards.md R240), the faults at unreachable
values (93_implementation_defined.md E5-E8), which instruction writes which field (10_state.md), and what U_DONE and
U_ERROR keep (43_serializer.md R203, 60_exceptions.md R218). -/

namespace Sys2Proof.Machine

/-! ### The engine's turn and reset -/

/-- Settles O6: the turn runs what {USTATE, STEP} decodes to, whether it is on the agenda or the agenda is empty. -/
theorem stepRunsTheSelectedMicroOp : Obligations.StepRunsTheSelectedMicroOp := by
  intro s i hi
  have hrun : ∀ t : State, t.ustate = s.ustate → t.stepCtr = s.stepCtr → runMicro t = exec i t := by
    intro t hu hk
    simp only [runMicro, State.uop, hu, hk, hi]
  refine ⟨fun rest hagenda => ?_, fun hagenda => ?_⟩
  · rw [step_cons hagenda]
    exact hrun _ rfl rfl
  · rw [step_nil hagenda]
    exact hrun s rfl rfl

/-- Settles O7: the waiting micro-states select no micro-operation. -/
theorem idleEngineHoldsAllState : Obligations.IdleEngineHoldsAllState := by
  intro s hu
  have hidle : s.idle = true := (UState.isIdle_iff _).2 hu
  refine ⟨fun hagenda => ?_, fun rest hagenda => ?_⟩
  · rw [step_nil hagenda, runMicro_idle hidle]
  · rw [step_cons hagenda]
    exact runMicro_idle hidle

/-- Settles O9: a reset event is `resetEngine`, which keeps only what the host has read and the agenda. -/
theorem resetGivesTheResetValues : Obligations.ResetGivesTheResetValues := by
  intro s rest hagenda
  rw [step_cons hagenda]
  exact ⟨_, rfl, rfl, rfl, rfl, rfl, rfl, rfl, rfl, rfl, rfl, rfl⟩

/-- Settles O10: the base is a multiple of 64. -/
theorem windowOffsetIsTheLowAddressBits : Obligations.WindowOffsetIsTheLowAddressBits := by
  intro addr hbase
  apply BitVec.eq_of_toNat_eq
  rw [Config.md5deBase] at hbase
  simp only [windowOffset, Config.md5deBase, BitVec.toNat_ofNat]
  omega

/-- Settles O18: by phase, and in U_READY by whether the beat fits. -/
theorem absorbTakesABeat : Obligations.AbsorbTakesABeat := by
  intro s nb hpos hle
  refine ⟨fun hready hfits => ?_, exec_absorb_of_ready_of_lt, exec_absorb_of_not_ready, presentCommand_busy⟩
  refine ⟨_, exec_absorb_of_ready_of_le hready hfits, rfl, ?_, ?_, rfl⟩
  · simp only [BitVec.toNat_add, BitVec.toNat_ofNat]
    omega
  · simp only [BitVec.toNat_ofNat]
    omega

/-- Settles O19, by phase. -/
theorem finalStartsThePadding : Obligations.FinalStartsThePadding :=
  fun _ => ⟨exec_final_of_ready, exec_final_of_not_ready, presentCommand_busy⟩

/-- Settles O31: CMP_LOAD reads nothing but A..D. -/
theorem cmpLoadSavesTheChainingValue : Obligations.CmpLoadSavesTheChainingValue :=
  exec_cmpLoad

/-! ### The step counter (R182) -/

theorem exists_runMicro_of_cmpStep {s : State} (hu : s.ustate = UState.cmpStep) :
    ∃ t, runMicro s = .next t ∧
      (s.stepCtr = 63#6 → t.stepCtr = 0#6 ∧ t.ustate = UState.cmpAcc) ∧
      (s.stepCtr ≠ 63#6 → t.stepCtr.toNat = s.stepCtr.toNat + 1 ∧ t.ustate = UState.cmpStep) := by
  refine ⟨_, runMicro_cmpStep hu, ?_⟩
  rw [roundOp_eq]
  refine ⟨fun hlast => ?_, fun hmore => ?_⟩
  · simp [hlast]
  · have hlt : s.stepCtr.toNat ≠ 63 := fun h => hmore (BitVec.eq_of_toNat_eq h)
    simp only [if_neg hmore, hu, and_true, BitVec.toNat_add, BitVec.toNat_ofNat]
    omega

/-- One more turn at the end of a run of turns. -/
theorem microTurns_succ_of_eq {n : Nat} {s t u : State} (h : microTurns n s = .next t) (h' : runMicro t = .next u) :
    microTurns (n + 1) s = .next u := by
  rw [microTurns_add, h, andThen_next, microTurns_succ, h', andThen_next]
  rfl

/-- Settles O36: one turn by R182's two cases, `n` turns by induction. -/
theorem stepCounterAdvances : Obligations.StepCounterAdvances := by
  intro s hu
  refine ⟨exists_runMicro_of_cmpStep hu, fun hzero n => ?_⟩
  induction n with
  | zero => exact fun _ => ⟨s, rfl, by simp [hzero], hu⟩
  | succ n ih =>
    intro hn
    obtain ⟨t, ht, hk, htu⟩ := ih (by omega)
    obtain ⟨u, hnext, -, hmore⟩ := exists_runMicro_of_cmpStep htu
    have hne : t.stepCtr ≠ 63#6 := fun h => by
      have h63 : t.stepCtr.toNat = 63 := by rw [h]; rfl
      omega
    obtain ⟨hk', huu⟩ := hmore hne
    exact ⟨u, microTurns_succ_of_eq ht hnext, by omega, huu⟩

/-! ### Unreachable values (E5-E8) -/

section
variable {s : State}

theorem presentCommand_of_unreachable {f : State → Host.Outcome State Fault Refusal} (h : 9 < s.ustate.toNat) :
    presentCommand f s = .fault (.unreachableUState s.ustate) := by
  have hlegal : ¬ (s.busy = true ∨ s.idle = true) := fun hl => absurd ((UState.legal_iff _).1 hl) (by omega)
  obtain ⟨hbusy, hidle⟩ := not_or.1 hlegal
  rw [presentCommand, if_neg hbusy, if_neg hidle]

theorem readDigest_of_unreachable (n : RegName) (h : 9 < s.ustate.toNat) :
    readDigest n s = .fault (.unreachableUState s.ustate) := by
  have hlegal : ¬ (s.busy = true ∨ s.idle = true) := fun hl => absurd ((UState.legal_iff _).1 hl) (by omega)
  have hdone : ¬ s.done = true := fun hd => by
    rw [State.done, decide_eq_true_eq] at hd
    simp [hd] at h
  rw [readDigest, if_neg hdone, if_neg hlegal]

theorem execRdStatus_of_unreachable (h : 9 < s.ustate.toNat) :
    execRdStatus s = .fault (.unreachableUState s.ustate) := by
  have hphase : UState.phase s.ustate = none := by
    rw [← Option.not_isSome_iff_eq_none, UState.phase_isSome]
    omega
  simp only [execRdStatus, hphase]

theorem execRdStatus_of_fill (hlegal : s.ustate.toNat ≤ 9) (h : 64 < s.fill.toNat) :
    execRdStatus s = .fault (.unreachableFill s.fill) := by
  obtain ⟨p, hphase, -⟩ := exists_phase_eq_some _ hlegal
  simp only [execRdStatus, hphase, if_pos h]

theorem padByte_of_fill (b : Byte) (h : 63 < s.fill.toNat) : padByte b s = .fault (.unreachableFill s.fill) := by
  rw [padByte, if_pos h]

theorem execAbsByte_of_fill (hpos : 1 ≤ s.pcnt.toNat) (hle : s.pcnt.toNat ≤ 4) (h : 63 < s.fill.toNat) :
    execAbsByte s = .fault (.unreachableFill s.fill) := by
  rw [execAbsByte, if_neg (by omega), if_pos h]

theorem execAbsByte_of_pcnt (h : s.pcnt = 0#3 ∨ 4 < s.pcnt.toNat) :
    execAbsByte s = .fault (.unreachablePcnt s.pcnt) := by
  have hout : s.pcnt.toNat < 1 ∨ 4 < s.pcnt.toNat := h.imp_left fun hzero => by simp [hzero]
  rw [execAbsByte, if_pos hout]

theorem execCmpAcc_of_ret (h : s.ret = 3#2) : execCmpAcc s = .fault (.unreachableRet s.ret) := by
  simp [execCmpAcc, h]

theorem execCmpAcc_of_pcnt (hret : s.ret = Ret.abs) (h : 4 < s.pcnt.toNat) :
    execCmpAcc s = .fault (.unreachablePcnt s.pcnt) := by
  simp [execCmpAcc, hret, h]

end

/-- Settles O46: the fault that each arm raises at its unreachable value. -/
theorem unreachableValuesFault : Obligations.UnreachableValuesFault := by
  intro s
  refine ⟨fun h => ?_, execCmpAcc_of_ret, execRdStatus_of_fill, fun h => ⟨padByte_of_fill _ h, padByte_of_fill _ h⟩,
    fun h hpos hle => execAbsByte_of_fill hpos hle h, execAbsByte_of_pcnt, execCmpAcc_of_pcnt⟩
  exact ⟨runMicro_unreachable h, execRdStatus_of_unreachable h, readDigest_of_unreachable .A h,
    readDigest_of_unreachable .B h, readDigest_of_unreachable .C h, readDigest_of_unreachable .D h,
    fun _ => presentCommand_of_unreachable h, presentCommand_of_unreachable h, presentCommand_of_unreachable h,
    fun _ => presentCommand_of_unreachable h, presentCommand_of_unreachable h, presentCommand_of_unreachable h⟩

/-! ### Which instruction writes which field (R20-R34) -/

/-- What no command touches: the compressor's registers, BUF, DIN, the word returned and the agenda. -/
def SameBesideCommand (s t : State) : Prop :=
  (t.saved, t.buf, t.stepCtr, t.ret, t.din, t.rdata, t.agenda) =
    (s.saved, s.buf, s.stepCtr, s.ret, s.din, s.rdata, s.agenda)

theorem sameBesideCommand_of_exec_wrCmd {s t : State} {w : Word} (h : exec (.wrCmd w) s = .next t) :
    SameBesideCommand s t := by
  obtain ⟨-, rfl⟩ | ⟨-, h⟩ := presentCommand_next h
  · rfl
  obtain ⟨heq, -⟩ | ⟨heq, -⟩ | ⟨nb, heq, -⟩ | ⟨heq, -⟩ | ⟨heq, -⟩ | heq := decodeAndExecute_cases w s <;>
    rw [heq] at h
  · cases h; rfl
  · cases h; rfl
  · obtain ⟨-, rfl⟩ | ⟨-, -, rfl⟩ | ⟨-, -, rfl⟩ := acceptAbsorb_next h <;> rfl
  · obtain ⟨-, rfl⟩ | ⟨-, rfl⟩ := acceptFinal_next h <;> rfl
  · cases h; rfl
  · cases h; rfl

/-- Settles O47: each arm's next state as one record update, from which the changed fields are read off. -/
theorem eachFieldHasItsWriters : Obligations.EachFieldHasItsWriters := by
  intro i s t h
  cases i with
  | nop =>
    obtain ⟨-, rfl⟩ | ⟨-, h⟩ := presentCommand_next h
    · simp
    · cases h; simp
  | init =>
    obtain ⟨-, rfl⟩ | ⟨-, h⟩ := presentCommand_next h
    · simp
    · cases h; simp [startMessage_eq]
  | absorb nb =>
    obtain ⟨-, rfl⟩ | ⟨-, h⟩ := presentCommand_next h
    · simp
    · obtain ⟨-, rfl⟩ | ⟨-, -, rfl⟩ | ⟨-, -, rfl⟩ := acceptAbsorb_next h <;> simp
  | final =>
    obtain ⟨-, rfl⟩ | ⟨-, h⟩ := presentCommand_next h
    · simp
    · obtain ⟨-, rfl⟩ | ⟨-, rfl⟩ := acceptFinal_next h <;> simp
  | clrerr =>
    obtain ⟨-, rfl⟩ | ⟨-, h⟩ := presentCommand_next h
    · simp
    · cases h; simp [clearCommandErrors_eq]
  | wrCmd w =>
    have hsame := sameBesideCommand_of_exec_wrCmd h
    simp only [SameBesideCommand, Prod.mk.injEq] at hsame
    simp [hsame]
  | rdStatus =>
    obtain ⟨-, p, -, rfl⟩ := execRdStatus_next h
    simp
  | wrDin d => cases h; simp [State.withDin]
  | rdDin => cases h; simp [State.withRdata]
  | rdLenLo => cases h; simp [State.withRdata]
  | rdLenHi => cases h; simp [State.withRdata]
  | rdDigest0 => obtain rfl := readDigest_next h; simp
  | rdDigest1 => obtain rfl := readDigest_next h; simp
  | rdDigest2 => obtain rfl := readDigest_next h; simp
  | rdDigest3 => obtain rfl := readDigest_next h; simp
  | absByte =>
    obtain ⟨-, -, -, u, r, rfl, -⟩ := execAbsByte_next h
    simp
  | cmpLoad => cases h; simp
  | stepF j =>
    rw [exec_stepF, roundOp_operation_of_ne_three j (by decide)] at h
    cases h; simp
  | stepG j =>
    rw [exec_stepG, roundOp_operation_of_ne_three j (by decide)] at h
    cases h; simp
  | stepH j =>
    rw [exec_stepH, roundOp_operation_of_ne_three j (by decide)] at h
    cases h; simp
  | stepI j =>
    rw [exec_stepI, roundOp_eq] at h
    cases h; simp
  | cmpAcc =>
    obtain ⟨u, rfl, -⟩ := execCmpAcc_next h
    simp
  | pad80 =>
    obtain ⟨-, u, r, rfl, -⟩ := padByte_next h
    simp
  | padZero =>
    obtain ⟨-, u, r, rfl, -⟩ := padByte_next h
    simp
  | padLen => cases h; simp [startCompression_eq]

/-! ### What U_DONE and U_ERROR keep -/

/-- `t` is `s` up to ERR_CMD, ERR_BUSY and the host's side of the window: what every event but a restart leaves. -/
def SameMessage (s t : State) : Prop :=
  ∃ cmd busy din rdata, t = { s with errCmd := cmd, errBusy := busy, din := din, rdata := rdata }

section
variable {s t : State}

theorem SameMessage.refl (s : State) : SameMessage s s := ⟨_, _, _, _, rfl⟩

theorem SameMessage.trans {u : State} (h : SameMessage s t) (h' : SameMessage t u) : SameMessage s u := by
  obtain ⟨cmd, busy, din, rdata, rfl⟩ := h
  obtain ⟨cmd', busy', din', rdata', rfl⟩ := h'
  exact ⟨cmd', busy', din', rdata', rfl⟩

/-- R92: INIT has one word. -/
theorem eq_initWord_of_decodeCmd {w : Word} (h : decodeCmd w = .ok .init) : w = 0x00000001#32 :=
  (Encoded.cmd.inj (encode_of_decodeCmd h).2).symm

/-- Only a 4-byte write of offset 0x00 is a write of CMD (R32, R94). -/
theorem cmdWrite_of_decodeBus {a : Access} {w : Word} (h : decodeBus a.pattern a.data = .ok (.wrCmd w)) :
    a.write = true ∧ a.off = 0x00#6 ∧ a.data = w := by
  obtain ⟨write, off, size, data⟩ := a
  have hrow := decodeBus_ok_iff.1 h
  simp only [List.mem_cons, Prod.mk.injEq, List.not_mem_nil, or_false, reduceCtorEq, and_false,
    Instr.wrCmd.injEq] at hrow
  obtain ⟨hpattern, rfl⟩ := hrow
  have key : ∀ (write : Bool) (off : BitVec 6),
      BitVec.ofBool write ++ off = 0b1000000#7 → write = true ∧ off = 0x00#6 := by decide
  obtain ⟨rfl, rfl⟩ := key write off hpattern
  exact ⟨rfl, rfl, rfl⟩

/-- R125, R126: outside U_READY an accepted command other than INIT touches at most the command errors. -/
theorem sameMessage_of_decodeAndExecute {w : Word} (hphase : s.ustate ≠ UState.ready) (hw : w ≠ 0x00000001#32)
    (h : decodeAndExecute w s = .next t) : SameMessage s t := by
  obtain ⟨heq, -⟩ | ⟨-, hinit⟩ | ⟨nb, heq, -⟩ | ⟨heq, -⟩ | ⟨heq, -⟩ | heq := decodeAndExecute_cases w s
  · cases heq ▸ h
    exact .refl s
  · exact absurd (eq_initWord_of_decodeCmd hinit) hw
  · obtain ⟨-, rfl⟩ | ⟨hready, -, -⟩ | ⟨hready, -, -⟩ := acceptAbsorb_next (heq ▸ h)
    · exact ⟨_, _, _, _, rfl⟩
    · exact absurd hready hphase
    · exact absurd hready hphase
  · obtain ⟨-, rfl⟩ | ⟨hready, -⟩ := acceptFinal_next (heq ▸ h)
    · exact ⟨_, _, _, _, rfl⟩
    · exact absurd hready hphase
  · cases heq ▸ h
    exact ⟨_, _, _, _, rfl⟩
  · cases heq ▸ h
    exact ⟨_, _, _, _, rfl⟩

/-- In U_DONE and U_ERROR every event but a restart keeps the message. -/
theorem sameMessage_of_runEvent {e : Event} (hphase : s.ustate = UState.done ∨ s.ustate = UState.error)
    (he : e.isRestart = false) (h : runEvent e s = .next t) : SameMessage s t := by
  have hidle : s.idle = true := hphase.elim State.idle_of_done State.idle_of_error
  have hready : s.ustate ≠ UState.ready := by rcases hphase with h | h <;> simp [h]
  cases e with
  | reset => cases he
  | micro =>
    cases (runMicro_idle hidle).symm.trans h
    exact .refl s
  | access a =>
    obtain ⟨-, i, hi, hexec⟩ := runAccess_next h
    obtain rfl | rfl | ⟨v, rfl⟩ := exec_of_decodeBus_cases hi hexec
    · obtain ⟨hwrite, hoff, -⟩ := cmdWrite_of_decodeBus hi
      have hw : a.data ≠ 0x00000001#32 := by simpa [Event.isRestart, hwrite, hoff] using he
      rw [exec_wrCmd, presentCommand_idle hidle] at hexec
      exact sameMessage_of_decodeAndExecute hready hw hexec
    · exact ⟨_, _, _, _, rfl⟩
    · exact ⟨_, _, _, _, rfl⟩

theorem sameMessage_of_runEvents {evs : List Event} (hphase : s.ustate = UState.done ∨ s.ustate = UState.error)
    (hevs : ∀ e ∈ evs, e.isRestart = false) (h : runEvents evs s = .next t) : SameMessage s t := by
  induction evs generalizing s with
  | nil =>
    cases h
    exact .refl _
  | cons e es ih =>
    obtain ⟨u, he, hes⟩ := andThen_eq_next.1 h
    have hsu := sameMessage_of_runEvent hphase (hevs e (by simp)) he
    obtain ⟨cmd, busy, din, rdata, rfl⟩ := id hsu
    exact hsu.trans (ih hphase (fun e' he' => hevs e' (by simp [he'])) hes)

end

/-- Settles O49: the accumulators are part of the message. -/
theorem digestIsImmutable : Obligations.DigestIsImmutable := by
  intro evs s t hdone hevs h
  obtain ⟨cmd, busy, din, rdata, rfl⟩ := sameMessage_of_runEvents (.inl hdone) hevs h
  exact ⟨hdone, rfl⟩

/-- Settles O50: so are ERR_OVF and MCNT; and U_ERROR is not U_DONE, so DIGEST reads 0. -/
theorem errorIsLeftOnlyByInitOrReset : Obligations.ErrorIsLeftOnlyByInitOrReset := by
  intro evs s t herror hovf hevs h
  obtain ⟨cmd, busy, din, rdata, rfl⟩ := sameMessage_of_runEvents (.inr herror) hevs h
  have hlegal : s.ustate.toNat ≤ 9 := by simp [herror]
  have hdone : s.ustate ≠ UState.done := by simp [herror]
  exact ⟨herror, hovf, rfl, readDigest_of_ne_done .A hlegal hdone, readDigest_of_ne_done .B hlegal hdone,
    readDigest_of_ne_done .C hlegal hdone, readDigest_of_ne_done .D hlegal hdone⟩

end Sys2Proof.Machine
end

section
/-! Bytes, the block buffer and the padder (20_memory.md R60-R67, 41_padder_buffer.md R150-R161, 43_serializer.md R200):
bytes and words as numbers, the canonical buffer, each padder micro-operation's bytes, and `pad` as a list. -/

namespace Sys2Proof.Machine

/-! ### Bytes and words -/

theorem byteOf_eq_ofNat {n : Nat} (i : Nat) (w : BitVec n) : byteOf i w = BitVec.ofNat 8 (w.toNat / 256 ^ i) := by
  apply BitVec.eq_of_toNat_eq
  have hpow : (2 : Nat) ^ (8 * i) = 256 ^ i := pow_mul 2 8 i
  rw [byteOf, BitVec.extractLsb'_toNat, Nat.shiftRight_eq_div_pow, hpow, BitVec.toNat_ofNat]

/-- `le32` of four consecutive bytes of a word is the word's 32 bits from there on (R10). -/
theorem le32_byteOf {n : Nat} (j : Nat) (w : BitVec n) :
    le32 (byteOf (4 * j) w) (byteOf (4 * j + 1) w) (byteOf (4 * j + 2) w) (byteOf (4 * j + 3) w) =
      w.extractLsb' (32 * j) 32 := by
  apply BitVec.eq_of_getLsbD_eq
  intro i hi
  have hlane : ∀ k, 8 * k ≤ i → 8 * (4 * j + k) + (i - 8 * k) = 32 * j + i := by omega
  simp only [le32, byteOf, BitVec.getLsbD_or, BitVec.getLsbD_shiftLeft, BitVec.getLsbD_setWidth,
    BitVec.getLsbD_extractLsb', hi, decide_true, Bool.true_and]
  rcases Nat.lt_or_ge i 8 with h | h8
  · simp [h, show i < 16 by omega, show i < 24 by omega, ← hlane 0 (by omega)]
  rcases Nat.lt_or_ge i 16 with h | h16
  · simp [h, show ¬ i < 8 by omega, show i < 24 by omega, show i - 8 < 8 by omega, show i - 8 < 32 by omega,
      ← hlane 1 (by omega)]
  rcases Nat.lt_or_ge i 24 with h | h24
  · simp [h, show ¬ i < 8 by omega, show ¬ i < 16 by omega, show ¬ i - 8 < 8 by omega, show i - 16 < 8 by omega,
      show i - 16 < 32 by omega, ← hlane 2 (by omega)]
  · simp [show ¬ i < 8 by omega, show ¬ i < 16 by omega, show ¬ i < 24 by omega, show ¬ i - 8 < 8 by omega,
      show ¬ i - 16 < 8 by omega, show i - 24 < 8 by omega, show i - 24 < 32 by omega, ← hlane 3 (by omega)]

/-! ### The mixing functions and the rotator (R170-R173) -/

/-- Settles O38: each function's bit as a truth table of its operands' bits. -/
theorem mixingFunctionsAreBitwiseMuxes : Obligations.MixingFunctionsAreBitwiseMuxes := by
  intro x y z i hi
  simp only [mixF, mixG, mixH, mixI, BitVec.getLsbD_or, BitVec.getLsbD_and, BitVec.getLsbD_xor, BitVec.getLsbD_not,
    hi, decide_true, Bool.true_and]
  cases x.getLsbD i <;> cases y.getLsbD i <;> cases z.getLsbD i <;> decide

/-- R97: table S. -/
theorem rotAmount_mem (k : BitVec 6) : rotAmount k ∈ [4, 5, 6, 7, 9, 10, 11, 12, 14, 15, 16, 17, 20, 21, 22, 23] := by
  revert k
  decide

theorem rotAmount_bounds (k : BitVec 6) : 0 < rotAmount k ∧ rotAmount k < 32 := by
  have hbounds : ∀ s ∈ [4, 5, 6, 7, 9, 10, 11, 12, 14, 15, 16, 17, 20, 21, 22, 23], 0 < s ∧ s < 32 := by decide
  exact hbounds _ (rotAmount_mem k)

/-- A bit that stays below bit 32 comes from the left shift, one that wraps from the right shift. -/
theorem getLsbD_rotl32 (v : Word) {s i : Nat} (hpos : 0 < s) (hlt : s < 32) (hi : i < 32) :
    (rotl32 v s).getLsbD ((i + s) % 32) = v.getLsbD i := by
  simp only [rotl32, BitVec.getLsbD_or, BitVec.getLsbD_shiftLeft, BitVec.getLsbD_ushiftRight]
  rcases Nat.lt_or_ge (i + s) 32 with hstay | hwrap
  · rw [Nat.mod_eq_of_lt hstay, Nat.add_sub_cancel, BitVec.getLsbD_of_ge v (32 - s + (i + s)) (by omega)]
    simp [hstay]
  · have hmod : (i + s) % 32 = i + s - 32 := by omega
    rw [hmod, show 32 - s + (i + s - 32) = i by omega]
    simp [show i + s - 32 < s by omega]

/-- Settles O39: table S by evaluation, the rotator by whether the bit wraps. -/
theorem rotatorMovesEachBit : Obligations.RotatorMovesEachBit := by
  refine ⟨rotAmount_mem, fun v k i hi => ?_⟩
  obtain ⟨hpos, hlt⟩ := rotAmount_bounds k
  exact getLsbD_rotl32 v hpos hlt hi

/-! ### The word-index schedule (R98) -/

theorem wordIndex_toNat (k : BitVec 6) : (wordIndex k).toNat =
    match k.toNat / 16 with
    | 0 => k.toNat % 16
    | 1 => (1 + 5 * (k.toNat % 16)) % 16
    | 2 => (5 + 3 * (k.toNat % 16)) % 16
    | _ => 7 * (k.toNat % 16) % 16 := by
  revert k
  decide

/-- R98 at position j of round r. -/
theorem wordIndex_ofNat_toNat {r j : Nat} (hr : r < 4) (hj : j < 16) :
    (wordIndex (BitVec.ofNat 6 (16 * r + j))).toNat = [j, 1 + 5 * j, 5 + 3 * j, 7 * j].getD r 0 % 16 := by
  have hk : (BitVec.ofNat 6 (16 * r + j)).toNat = 16 * r + j := by rw [BitVec.toNat_ofNat]; omega
  rw [wordIndex_toNat, hk, show (16 * r + j) / 16 = r by omega, show (16 * r + j) % 16 = j by omega]
  interval_cases r
  · exact (Nat.mod_eq_of_lt hj).symm
  · rfl
  · rfl
  · rfl

/-- The position in round r at which word i is used: R98's formulas inverted modulo 16. -/
def positionOfWord (r i : Nat) : Nat := [i, 13 * i + 3, 11 * i + 9, 7 * i].getD r 0 % 16

theorem positionOfWord_lt (r i : Nat) : positionOfWord r i < 16 := Nat.mod_lt _ (by omega)

theorem wordIndex_eq_iff_position {r i j : Nat} (hr : r < 4) (hi : i < 16) (hj : j < 16) :
    (wordIndex (BitVec.ofNat 6 (16 * r + j))).toNat = i ↔ j = positionOfWord r i := by
  rw [wordIndex_ofNat_toNat hr hj, positionOfWord]
  interval_cases r <;> simp only [List.getD_cons_zero, List.getD_cons_succ] <;> omega

/-- Settles O40: R98's formulas by evaluation, and `positionOfWord` as the one position of each word. -/
theorem wordIndexScheduleIsAPermutation : Obligations.WordIndexScheduleIsAPermutation := by
  refine ⟨wordIndex_toNat, fun r hr i hi => ⟨positionOfWord r i, positionOfWord_lt r i, ?_, fun j hj => ?_⟩⟩
  · exact (wordIndex_eq_iff_position hr hi (positionOfWord_lt r i)).2 rfl
  · exact (wordIndex_eq_iff_position hr hi hj).1

/-! ### The canonical buffer (log 4) -/

theorem Memory.read_of_ge {m : Memory} (h : m.wf) {i : Nat} (hi : bufBytes ≤ i) : m.read i = unlistedByte := by
  induction m with
  | nil => rfl
  | cons c m ih =>
    have hc : c.1 < bufBytes := (h.2 c (by simp)).2
    rw [Memory.read_cons, if_neg (by omega)]
    exact ih (Memory.wf_tail h)

section
variable {c : Host.Cell} {m : Memory}

theorem Memory.lt_of_mem_tail (h : Memory.wf (c :: m)) {d : Host.Cell} (hd : d ∈ m) : c.1 < d.1 :=
  (List.pairwise_cons.1 h.1).1 d hd

/-- A listed byte differs from what an unlisted index reads as. -/
theorem Memory.read_head_ne (h : Memory.wf (c :: m)) : Memory.read (c :: m) c.1 ≠ unlistedByte := by
  rw [Memory.read_cons, if_pos rfl]
  exact (h.2 c (by simp)).1

theorem Memory.read_before_head (h : Memory.wf (c :: m)) {i : Nat} (hi : i < c.1) :
    Memory.read (c :: m) i = unlistedByte := by
  refine Memory.read_below fun d hd => ?_
  rcases List.mem_cons.1 hd with rfl | hd
  · exact hi
  · have := Memory.lt_of_mem_tail h hd
    omega

theorem Memory.read_tail_head (h : Memory.wf (c :: m)) : Memory.read m c.1 = unlistedByte :=
  Memory.read_below fun _ hd => Memory.lt_of_mem_tail h hd

end

/-- The first entries agree, since the least index that does not read as unlisted is one; then the tails do. -/
theorem Memory.eq_of_read_eq {m m' : Memory} (h : m.wf) (h' : m'.wf) (hread : ∀ i, m.read i = m'.read i) : m = m' := by
  induction m generalizing m' with
  | nil =>
    cases m' with
    | nil => rfl
    | cons d m' => exact absurd (hread d.1).symm (Memory.read_head_ne h')
  | cons c m ih =>
    cases m' with
    | nil => exact absurd (hread c.1) (Memory.read_head_ne h)
    | cons d m' =>
      have hindex : c.1 = d.1 := by
        rcases Nat.lt_trichotomy c.1 d.1 with hlt | heq | hgt
        · exact absurd ((hread c.1).trans (Memory.read_before_head h' hlt)) (Memory.read_head_ne h)
        · exact heq
        · exact absurd ((hread d.1).symm.trans (Memory.read_before_head h hgt)) (Memory.read_head_ne h')
      have hbyte : c.2 = d.2 := by simpa [Memory.read_cons, hindex] using hread c.1
      have htail : ∀ i, Memory.read m i = Memory.read m' i := by
        intro i
        by_cases hi : i = c.1
        · rw [hi, Memory.read_tail_head h, hindex, Memory.read_tail_head h']
        · simpa [Memory.read_cons, hi, hindex ▸ hi] using hread i
      rw [Prod.ext hindex hbyte, ih (Memory.wf_tail h) (Memory.wf_tail h') htail]

/-- Settles O41: from index 64 on both read as unlisted. -/
theorem equalReadsAreEqualBuffers : Obligations.EqualReadsAreEqualBuffers := by
  intro m m' h h' hread
  refine Memory.eq_of_read_eq h h' fun i => ?_
  rcases Nat.lt_or_ge i bufBytes with hi | hi
  · exact hread i hi
  · rw [Memory.read_of_ge h hi, Memory.read_of_ge h' hi]

/-! ### The padder's micro-operations (R151-R158) -/

section
variable {s : State}

theorem sameOutside_write (m : Memory) (i : Nat) (b : Byte) : SameOutside i 1 m (m.write i b) :=
  fun _ hk => Memory.read_write_other m b (by omega)

/-- R155 and R157 differ in the byte alone. -/
theorem padByte_writes (b : Byte) (hwf : s.buf.wf) (hfill : s.fill.toNat ≤ 63) : ∃ t, padByte b s = .next t ∧
    t.buf.read s.fill.toNat = b ∧ SameOutside s.fill.toNat 1 s.buf t.buf ∧ t.fill.toNat = s.fill.toNat + 1 ∧
    (t.ret, t.ustate) =
      (if s.fill.toNat = 63 then (Ret.pad, UState.cmpLoad)
       else if s.fill.toNat = 55 then (s.ret, UState.padLen) else (s.ret, UState.padZero)) ∧
    t = { s with buf := t.buf, fill := t.fill, ret := t.ret, ustate := t.ustate } := by
  obtain ⟨t, ht⟩ := exists_padByte_eq_next b hfill
  obtain ⟨-, u, r, rfl, hcase⟩ := padByte_next ht
  refine ⟨_, ht, Memory.read_write_same hwf _ _, sameOutside_write _ _ _, fill_succ_toNat hfill, ?_, rfl⟩
  obtain ⟨hfull, rfl, rfl⟩ | ⟨hfield, rfl, rfl⟩ | ⟨hroom, hne, rfl, rfl⟩ := hcase
  · rw [if_pos hfull]
  · rw [if_neg (by omega), if_pos hfield]
  · rw [if_neg (by omega), if_neg hne]

end

/-- Settles O25: the byte by reading back the write, the transition by the old FILL and PCNT. -/
theorem absByteMovesOneByte : Obligations.AbsByteMovesOneByte := by
  intro s hwf hpos hle hfill
  obtain ⟨t, ht⟩ := exists_execAbsByte_eq_next hpos hle hfill
  obtain ⟨-, -, -, u, r, rfl, hcase⟩ := execAbsByte_next ht
  refine ⟨_, ht, ?_, sameOutside_write _ _ _, fill_succ_toNat hfill, ?_, pcnt_pred_toNat hpos, ?_, rfl⟩
  · rw [Memory.read_write_same hwf, byteOf_eq_ofNat, pow_zero, Nat.div_one]
  · simp [Nat.shiftRight_eq_div_pow]
  · obtain ⟨hfull, rfl, rfl⟩ | ⟨hroom, hlast, rfl, rfl⟩ | ⟨hroom, hmore, rfl, rfl⟩ := hcase
    · rw [if_pos (by omega)]
    · rw [if_neg (by omega), if_pos (by simp [hlast])]
    · have hne : s.pcnt.toNat ≠ 1 := fun h => hmore (BitVec.eq_of_toNat_eq h)
      rw [if_neg (by omega), if_neg (by omega)]

/-- Settles O26: the padder's byte is 0x80. -/
theorem pad80WritesTheMarker : Obligations.Pad80WritesTheMarker :=
  fun _ => padByte_writes 0x80#8

/-- Settles O27: the padder's byte is 0x00. -/
theorem padZeroWritesAZeroByte : Obligations.PadZeroWritesAZeroByte :=
  fun _ => padByte_writes 0x00#8

/-- MCNT has three zero bits to spare in 64, so the bit length does not wrap. -/
theorem bitLength_toNat (n : BitVec 61) : (n.setWidth 64 <<< 3).toNat = 8 * n.toNat := by
  have hn : n.toNat < 2 ^ 61 := n.isLt
  rw [BitVec.toNat_shiftLeft, BitVec.toNat_setWidth, Nat.shiftLeft_eq]
  omega

theorem lengthField_getElem (n : BitVec 61) {i : Nat} (hi : i < (lengthField n).length) :
    (lengthField n)[i] = byteOf i (n.setWidth 64 <<< 3) := by
  simp [lengthField]

/-- The bytes of PAD_LEN in BUF. -/
theorem read_lengthField {m : Memory} (h : m.wf) (n : BitVec 61) {i : Nat} (hi : i < 8) :
    (m.writeBytes 56 (lengthField n)).read (56 + i) = byteOf i (n.setWidth 64 <<< 3) := by
  rw [Memory.read_writeBytes_inside h _ (by simp [bufBytes]) (by simpa using hi), lengthField_getElem]

/-- X[14] and X[15] are the halves of the bit length (R158). -/
theorem wordView_lengthField {m : Memory} (h : m.wf) (n : BitVec 61) {j : Nat} (hj : j < 2) :
    wordView (m.writeBytes 56 (lengthField n)) (BitVec.ofNat 4 (14 + j)) =
      (n.setWidth 64 <<< 3).extractLsb' (32 * j) 32 := by
  have hindex : 4 * (BitVec.ofNat 4 (14 + j)).toNat = 56 + 4 * j := by rw [BitVec.toNat_ofNat]; omega
  have hread : ∀ c, c < 4 → Memory.read (m.writeBytes 56 (lengthField n)) (56 + 4 * j + c) =
      byteOf (4 * j + c) (n.setWidth 64 <<< 3) := by
    intro c hc
    rw [add_assoc, read_lengthField h n (by omega)]
  have hread0 := hread 0 (by omega)
  rw [add_zero, add_zero] at hread0
  rw [wordView, hindex, hread0, hread 1 (by omega), hread 2 (by omega), hread 3 (by omega), le32_byteOf]

/-- Settles O28: the written bytes read back, and the word view of the last eight indices. -/
theorem padLenWritesTheLengthField : Obligations.PadLenWritesTheLengthField := by
  intro s hwf
  have hlt : s.mcnt.toNat < 2 ^ 61 := s.mcnt.isLt
  refine ⟨_, exec_padLen s, fun i hi => ?_, fun k hk => ?_, ?_, ?_, rfl⟩
  · rw [read_lengthField hwf _ hi, byteOf_eq_ofNat, bitLength_toNat]
  · exact Memory.read_writeBytes_outside _ _ (by simpa using hk)
  · have hlow := wordView_lengthField hwf s.mcnt (j := 0) (by omega)
    rw [hlow, BitVec.extractLsb'_toNat, bitLength_toNat, Nat.mul_zero, Nat.shiftRight_zero]
  · have hhigh := wordView_lengthField hwf s.mcnt (j := 1) (by omega)
    rw [hhigh, BitVec.extractLsb'_toNat, bitLength_toNat, Nat.shiftRight_eq_div_pow]
    omega

/-! ### `pad` (R150, R161) -/

@[simp] theorem bitLengthBytes_length (n : Nat) : (bitLengthBytes n).length = 8 := by simp [bitLengthBytes]

theorem padMessage_length (m : List Byte) : (padMessage m).length = m.length + 1 + padZeros m.length + 8 := by
  simp only [padMessage, List.length_append, List.length_singleton, List.length_replicate, bitLengthBytes_length]

/-- Between the marker and the length field every byte is 0. -/
theorem padMessage_getElem?_zero (m : List Byte) {i : Nat} (hlow : m.length + 1 ≤ i)
    (hhigh : i < m.length + 1 + padZeros m.length) : (padMessage m)[i]? = some 0x00#8 := by
  rw [padMessage, List.getElem?_append_left (by simp; omega), List.getElem?_append_right (by simp; omega),
    List.getElem?_replicate_of_lt (by simp; omega)]

theorem padMessage_getElem?_message (m : List Byte) {i : Nat} (hi : i < m.length) : (padMessage m)[i]? = m[i]? := by
  rw [padMessage, List.append_assoc, List.append_assoc, List.getElem?_append_left hi]

theorem padMessage_getElem?_marker (m : List Byte) : (padMessage m)[m.length]? = some 0x80#8 := by
  rw [padMessage, List.append_assoc, List.append_assoc, List.getElem?_append_right le_rfl, Nat.sub_self]
  rfl

theorem padMessage_getElem?_length {m : List Byte} (hm : m.length ≤ 2 ^ 61 - 1) {i : Nat} (hi : i < 8) :
    (padMessage m)[m.length + 1 + padZeros m.length + i]? = some (BitVec.ofNat 8 (8 * m.length / 256 ^ i)) := by
  have hbits : (BitVec.ofNat 64 (8 * m.length)).toNat = 8 * m.length := by rw [BitVec.toNat_ofNat]; omega
  have hindex : m.length + 1 + padZeros m.length + i -
      (m ++ [0x80#8] ++ List.replicate (padZeros m.length) 0x00#8).length = i := by simp; omega
  rw [padMessage, List.getElem?_append_right (by simp; omega), hindex]
  simp [bitLengthBytes, hi, byteOf_eq_ofNat, hbits]

/-- Settles O29: arithmetic on the length N + 1 + K + 8. -/
theorem padProperties : Obligations.PadProperties := by
  intro m
  have hlen := padMessage_length m
  have hzero := fun i => padMessage_getElem?_zero m (i := i)
  simp only [padZeros] at hlen hzero ⊢
  refine ⟨by omega, by omega, by omega, by omega, fun h => ⟨by omega, fun i hlow hhigh => hzero i hlow (by omega)⟩,
    by omega, by omega, by omega, by omega⟩

/-- Settles O30: K by arithmetic, the bytes by the parts of the list. -/
theorem padIsTheSmallest : Obligations.PadIsTheSmallest := by
  intro m hm
  refine ⟨?_, fun k hk => ?_, padMessage_length m, fun i => padMessage_getElem?_message m,
    fun i => padMessage_getElem?_zero m, fun i => padMessage_getElem?_length hm, padMessage_getElem?_marker m⟩
  · rw [padZeros]; omega
  · rw [padZeros]; omega

/-! ### The digest's bytes (R200, R202) -/

theorem wordBytes_getElem? (w : Word) {i : Nat} (hi : i < 4) :
    (wordBytes w)[i]? = some (BitVec.ofNat 8 (w.toNat / 2 ^ (8 * i))) := by
  have hbyte : (wordBytes w)[i]? = some (byteOf i w) := by interval_cases i <;> rfl
  have hpow : (2 : Nat) ^ (8 * i) = 256 ^ i := pow_mul 2 8 i
  rw [hbyte, byteOf_eq_ofNat, hpow]

/-- Byte 4 * k + i of four serialized words is byte i of word k. -/
theorem digestBytes_getElem? (w : Nat → Word) {k i : Nat} (hk : k < 4) (hi : i < 4) :
    (wordBytes (w 0) ++ wordBytes (w 1) ++ wordBytes (w 2) ++ wordBytes (w 3))[4 * k + i]? = (wordBytes (w k))[i]? := by
  interval_cases k <;> interval_cases i <;> rfl

/-- Settles O24: the four words read are A, B, C, D. -/
theorem digestLanesAreTheDigestBytes : Obligations.DigestLanesAreTheDigestBytes := by
  intro s hdone
  refine ⟨fun k => [s.reg.a, s.reg.b, s.reg.c, s.reg.d].getD k 0#32, readDigest_of_done .A hdone,
    readDigest_of_done .B hdone, readDigest_of_done .C hdone, readDigest_of_done .D hdone, fun k i hk hi => ?_⟩
  rw [← wordBytes_getElem? _ hi]
  exact digestBytes_getElem? (fun k => [s.reg.a, s.reg.b, s.reg.c, s.reg.d].getD k 0#32) hk hi

/-- Settles O60: three closed digests, evaluated in the kernel. -/
theorem digestKnownAnswers : Obligations.DigestKnownAnswers := by
  unfold Obligations.DigestKnownAnswers
  decide +kernel

end Sys2Proof.Machine
end

section
/-! Runs of engine turns (42_compression.md R175-R184, 70_reset_and_hazards.md R251): a run while BUSY = 1 and what it
says of `microTurns`, `settle` and `busyExactly`; and the compression from any of its micro-states. -/

namespace Sys2Proof.Machine

/-! ### Busy runs -/

/-- From `s` the engine takes `n` turns to `t`, and BUSY = 1 before each of them. -/
inductive BusyRun : Nat → State → State → Prop
  | refl (s : State) : BusyRun 0 s s
  | turn {n : Nat} {s t u : State} (hbusy : s.busy = true) (hmicro : runMicro s = .next t) (hrest : BusyRun n t u) :
      BusyRun (n + 1) s u

section
variable {m n : Nat} {s t u : State}

theorem BusyRun.single (hbusy : s.busy = true) (hmicro : runMicro s = .next t) : BusyRun 1 s t :=
  .turn hbusy hmicro (.refl t)

theorem BusyRun.trans (h : BusyRun m s t) (h' : BusyRun n t u) : BusyRun (m + n) s u := by
  induction h with
  | refl => rwa [Nat.zero_add]
  | turn hbusy hmicro _ ih =>
    rw [Nat.add_right_comm]
    exact .turn hbusy hmicro (ih h')

theorem BusyRun.microTurns_eq (h : BusyRun n s t) : microTurns n s = .next t := by
  induction h with
  | refl => rfl
  | turn _ hmicro _ ih => rw [microTurns_succ, hmicro, andThen_next, ih]

/-- BUSY = 1 at every point before the end. -/
theorem BusyRun.exists_busy_of_lt (h : BusyRun n s t) (hm : m < n) : ∃ u, microTurns m s = .next u ∧ u.busy = true := by
  induction h generalizing m with
  | refl => omega
  | turn hbusy hmicro _ ih =>
    cases m with
    | zero => exact ⟨_, rfl, hbusy⟩
    | succ m =>
      rw [microTurns_succ, hmicro, andThen_next]
      exact ih (by omega)

/-- `settle` takes the run's turns and stops where it ends. -/
theorem BusyRun.settle_eq (h : BusyRun n s t) (hidle : t.idle = true) (hle : n ≤ m) : settle m s = .next t := by
  induction h generalizing m with
  | refl s => cases m <;> simp [settle, State.not_busy_of_idle hidle]
  | turn hbusy hmicro _ ih =>
    cases m with
    | zero => omega
    | succ m => simp [settle, hbusy, hmicro, ih hidle (Nat.le_of_succ_le_succ hle)]

theorem BusyRun.busyExactly (h : BusyRun n s t) (hidle : t.idle = true) : busyExactly n s :=
  ⟨fun _ hm => h.exists_busy_of_lt hm, t, h.microTurns_eq, hidle⟩

/-- A waiting engine is busy for no turn. -/
theorem busyExactly_zero (hidle : s.idle = true) : Machine.busyExactly 0 s := (BusyRun.refl s).busyExactly hidle

end

/-! ### The 64 operations (R178-R184) -/

/-- The datapath's pass at k = STEP is `compress`'s operation k. -/
theorem roundQuad_eq_compressStep (k : BitVec 6) (m : Memory) (q : Quad) :
    roundQuad (mixOfRound (k.toNat / 16)) k m q = compressStep (bufWords m) q k.toNat := by
  rw [roundQuad_eq_updateByRole]
  simp only [compressStep, bufWords, BitVec.ofNat_toNat, BitVec.setWidth_eq]

/-- `s` after `n` of the operations from k = STEP on. -/
def compressing (n : Nat) (s : State) : State :=
  { s with
    reg := (List.range' s.stepCtr.toNat n).foldl (compressStep (bufWords s.buf)) s.reg
    stepCtr := s.stepCtr + BitVec.ofNat 6 n
    ustate := if s.stepCtr.toNat + n < 64 then UState.cmpStep else UState.cmpAcc }

section
variable {n : Nat} {s : State}

theorem compressing_zero (hu : s.ustate = UState.cmpStep) : compressing 0 s = s := by
  have hk : s.stepCtr.toNat < 64 := s.stepCtr.isLt
  simp [compressing, hk, ← hu]

theorem isCompress_compressing (n : Nat) (s : State) : UState.isCompress (compressing n s).ustate = true := by
  simp only [compressing]
  split_ifs <;> rfl

/-- One turn is one operation; the last one wraps STEP to 0 and goes to U_CMP_ACC. -/
theorem runMicro_compressing (hn : s.stepCtr.toNat + n < 64) :
    runMicro (compressing n s) = .next (compressing (n + 1) s) := by
  have hk : (compressing n s).stepCtr.toNat = s.stepCtr.toNat + n := by
    simp only [compressing, BitVec.toNat_add, BitVec.toNat_ofNat]
    omega
  have hlast : (compressing n s).stepCtr = 63#6 ↔ ¬ s.stepCtr.toNat + (n + 1) < 64 := by
    rw [← BitVec.toNat_inj, hk, BitVec.toNat_ofNat]
    omega
  have hsucc : s.stepCtr + BitVec.ofNat 6 (n + 1) = (compressing n s).stepCtr + 1#6 := by
    simp only [compressing, BitVec.ofNat_add, BitVec.add_assoc]
  have hreg : (List.range' s.stepCtr.toNat (n + 1)).foldl (compressStep (bufWords s.buf)) s.reg =
      compressStep (bufWords s.buf) (compressing n s).reg (compressing n s).stepCtr.toNat := by
    rw [hk, List.range'_1_concat, List.foldl_append]
    rfl
  have hu : (compressing n s).ustate = UState.cmpStep := if_pos hn
  have hnext : compressing (n + 1) s = { compressing n s with
      reg := compressStep (bufWords s.buf) (compressing n s).reg (compressing n s).stepCtr.toNat
      stepCtr := (compressing n s).stepCtr + 1#6
      ustate := if s.stepCtr.toNat + (n + 1) < 64 then UState.cmpStep else UState.cmpAcc } := by
    rw [← hreg, ← hsucc]
    rfl
  rw [runMicro_cmpStep hu, roundOp_eq, roundQuad_eq_compressStep, hnext, hu]
  by_cases h : (compressing n s).stepCtr = 63#6
  · have hnot := hlast.1 h
    simp only [if_pos h, if_neg hnot]
    rw [h]
    rfl
  · have hmore := not_not.1 (mt hlast.2 h)
    simp only [if_neg h, if_pos hmore]
    rfl

theorem busyRun_compressing (hu : s.ustate = UState.cmpStep) (hn : s.stepCtr.toNat + n ≤ 64) :
    BusyRun n s (compressing n s) := by
  induction n with
  | zero =>
    rw [compressing_zero hu]
    exact .refl s
  | succ n ih =>
    have hcmpStep : (compressing n s).ustate = UState.cmpStep := if_pos (by omega)
    have hbusy : (compressing n s).busy = true := by rw [State.busy, hcmpStep]; rfl
    exact (ih (by omega)).trans (.single hbusy (runMicro_compressing (by omega)))

/-! ### The whole compression (R175, R183) -/

/-- The micro-state in which CMP_ACC leaves the engine, by RET and PCNT. -/
def afterCompression (s : State) : BitVec 4 :=
  if s.ret = Ret.done then UState.done else if s.ret = Ret.pad then UState.padZero
  else if s.pcnt = 0#3 then UState.ready else UState.absByte

/-- RET is legal, and PCNT is one of a beat where CMP_ACC reads it. -/
def ReturnLegal (s : State) : Prop :=
  s.ret = Ret.done ∨ s.ret = Ret.pad ∨ (s.ret = Ret.abs ∧ s.pcnt.toNat ≤ 4)

theorem execCmpAcc_eq (hret : ReturnLegal s) :
    execCmpAcc s = .next { s with reg := s.reg.add s.saved, fill := 0#7, ustate := afterCompression s } := by
  obtain hret | hret | ⟨hret, hle⟩ := hret
  · rw [← exec_cmpAcc, exec_cmpAcc_of_done hret, afterCompression, if_pos hret]
  · rw [← exec_cmpAcc, exec_cmpAcc_of_pad hret, afterCompression, if_neg (by simp [hret]), if_pos hret]
  · rw [← exec_cmpAcc, afterCompression, if_neg (by simp [hret]), if_neg (by simp [hret])]
    by_cases hzero : s.pcnt = 0#3
    · rw [exec_cmpAcc_of_abs_of_zero hret hzero, if_pos hzero]
    · have hpos : s.pcnt.toNat ≠ 0 := fun h => hzero (BitVec.eq_of_toNat_eq h)
      rw [exec_cmpAcc_of_abs_of_pos hret (by omega) hle, if_neg hzero]

/-- From any point of the operations: the remaining ones and CMP_ACC. -/
theorem busyRun_of_cmpStep (hu : s.ustate = UState.cmpStep) (hret : ReturnLegal s) :
    BusyRun (65 - s.stepCtr.toNat) s { compressing (64 - s.stepCtr.toNat) s with
      reg := (compressing (64 - s.stepCtr.toNat) s).reg.add s.saved, fill := 0#7
      ustate := afterCompression s } := by
  have hk : s.stepCtr.toNat < 64 := s.stepCtr.isLt
  have hacc : (compressing (64 - s.stepCtr.toNat) s).ustate = UState.cmpAcc := if_neg (by omega)
  have hbusy : (compressing (64 - s.stepCtr.toNat) s).busy = true := by rw [State.busy, hacc]; rfl
  have hmicro := (runMicro_cmpAcc hacc).trans (execCmpAcc_eq (s := compressing (64 - s.stepCtr.toNat) s) hret)
  rw [show 65 - s.stepCtr.toNat = 64 - s.stepCtr.toNat + 1 by omega]
  exact (busyRun_compressing hu (by omega)).trans (.single hbusy hmicro)

/-- `s` after CMP_LOAD. -/
def loaded (s : State) : State := { s with saved := s.reg, stepCtr := 0#6, ustate := UState.cmpStep }

theorem busyRun_loaded (hu : s.ustate = UState.cmpLoad) : BusyRun 1 s (loaded s) :=
  .single (by rw [State.busy, hu]; rfl) (runMicro_cmpLoad hu)

/-- `s` after the compression that U_CMP_LOAD starts, with the accumulators `q`. (A parameter, so that reading another
field never compares states by evaluating `compress`.) -/
def compressedTo (q : Quad) (s : State) : State :=
  { s with reg := q, saved := s.reg, fill := 0#7, stepCtr := 0#6, ustate := afterCompression s }

@[simp] theorem compressedTo_reg (q : Quad) (s : State) : (compressedTo q s).reg = q := rfl
@[simp] theorem compressedTo_buf (q : Quad) (s : State) : (compressedTo q s).buf = s.buf := rfl
@[simp] theorem compressedTo_ustate (q : Quad) (s : State) : (compressedTo q s).ustate = afterCompression s := rfl
@[simp] theorem compressedTo_pend (q : Quad) (s : State) : (compressedTo q s).pend = s.pend := rfl
@[simp] theorem compressedTo_pcnt (q : Quad) (s : State) : (compressedTo q s).pcnt = s.pcnt := rfl

/-- From U_CMP_LOAD the 66 turns are one `compress`. -/
theorem busyRun_of_cmpLoad (hu : s.ustate = UState.cmpLoad) (hret : ReturnLegal s) :
    BusyRun 66 s (compressedTo (compress s.reg (bufWords s.buf)) s) := by
  have hk : (loaded s).stepCtr.toNat = 0 := rfl
  have hend : compressing 64 (loaded s) = { loaded s with
      reg := compressRounds s.reg (bufWords s.buf) 64, stepCtr := 0#6, ustate := UState.cmpAcc } := by
    rw [compressRounds, List.range_eq_range']
    rfl
  have hrun := (busyRun_loaded hu).trans (busyRun_of_cmpStep (s := loaded s) rfl hret)
  rw [hk, hend] at hrun
  exact hrun

end

/-- Settles O51: CMP_LOAD, the 64 operations in order, CMP_ACC. -/
theorem sixtySixMicroStepsCompress : Obligations.SixtySixMicroStepsCompress := by
  intro s hu hret
  refine ⟨fun n hn => ?_, _, (busyRun_of_cmpLoad hu hret).microTurns_eq, compressedTo_reg _ s, rfl⟩
  cases n with
  | zero => exact ⟨s, rfl, by rw [hu]; rfl⟩
  | succ n =>
    have hbound : (loaded s).stepCtr.toNat + n ≤ 64 := by simp [loaded]; omega
    have hrun := (busyRun_loaded hu).trans (busyRun_compressing (s := loaded s) rfl hbound)
    rw [Nat.add_comm n]
    exact ⟨_, hrun.microTurns_eq, isCompress_compressing n _⟩

end Sys2Proof.Machine
end

section
/-! Accepted commands run to completion (40_host_commands.md R134-R136, 70_reset_and_hazards.md R251-R253): turns that
write bytes as `absorb_byte` of the same bytes, with their number; a beat, the padding and the last compression. -/

namespace Sys2Proof.Machine

/-! ### `absorb_byte` of a list of bytes (R134) -/

section
variable {t : BlockState} {bs : List Byte}

@[simp] theorem absorbBytes_cons (t : BlockState) (b : Byte) (bs : List Byte) :
    absorbBytes t (b :: bs) = absorbBytes (absorbByte t b) bs := rfl

theorem absorbBytes_append (t : BlockState) (bs cs : List Byte) :
    absorbBytes t (bs ++ cs) = absorbBytes (absorbBytes t bs) cs := List.foldl_append

theorem absorbByte_of_full (b : Byte) (h : t.fill = 63) :
    absorbByte t b = ⟨compress t.reg (bufWords (t.buf.write t.fill b)), t.buf.write t.fill b, 0⟩ := by
  simp [absorbByte, h]

theorem absorbByte_of_room (b : Byte) (h : t.fill ≠ 63) :
    absorbByte t b = ⟨t.reg, t.buf.write t.fill b, t.fill + 1⟩ := by
  simp [absorbByte, h]

theorem absorbBytes_fill (h : t.fill < 64) : (absorbBytes t bs).fill = (t.fill + bs.length) % 64 := by
  induction bs generalizing t with
  | nil => exact (Nat.mod_eq_of_lt h).symm
  | cons b bs ih =>
    rw [absorbBytes_cons, List.length_cons]
    by_cases hfull : t.fill = 63
    · rw [absorbByte_of_full b hfull, ih (by simp)]
      simp only
      omega
    · rw [absorbByte_of_room b hfull, ih (by simp only; omega)]
      simp only
      omega

/-- Bytes that leave room in the block are only written. -/
theorem absorbBytes_of_room (h : t.fill + bs.length < 64) :
    absorbBytes t bs = ⟨t.reg, t.buf.writeBytes t.fill bs, t.fill + bs.length⟩ := by
  induction bs generalizing t with
  | nil => rfl
  | cons b bs ih =>
    rw [List.length_cons] at h
    rw [absorbBytes_cons, absorbByte_of_room b (by omega), ih (by simp only; omega), List.length_cons,
      Nat.add_right_comm, Nat.add_assoc]
    rfl

/-- Bytes that fill the block up to its end are written and compressed once. -/
theorem absorbBytes_of_full (hne : bs ≠ []) (h : t.fill + bs.length = 64) :
    absorbBytes t bs = ⟨compress t.reg (bufWords (t.buf.writeBytes t.fill bs)), t.buf.writeBytes t.fill bs, 0⟩ := by
  induction bs generalizing t with
  | nil => exact absurd rfl hne
  | cons b bs ih =>
    rw [List.length_cons] at h
    cases bs with
    | nil => exact absorbByte_of_full b (by simpa using h)
    | cons c cs =>
      rw [List.length_cons] at h
      rw [absorbBytes_cons, absorbByte_of_room b (by omega),
        ih (List.cons_ne_nil c cs) (by rw [List.length_cons]; simp only; omega)]
      rfl

end

/-! ### Runs that absorb bytes -/

/-- The part of the engine that `absorb_byte` works on. -/
def blockOf (s : State) : BlockState := ⟨s.reg, s.buf, s.fill.toNat⟩

/-- What no turn changes: MCNT, the flags, DIN, the word returned and the agenda. -/
def SameContext (s t : State) : Prop :=
  (t.mcnt, t.errOvf, t.errCmd, t.errBusy, t.din, t.rdata, t.agenda) =
    (s.mcnt, s.errOvf, s.errCmd, s.errBusy, s.din, s.rdata, s.agenda)

/-- `n` busy turns from `s` to micro-state `u` in `v` that are `absorb_byte` of `bs`. -/
structure AbsorbRun (n : Nat) (bs : List Byte) (u : BitVec 4) (s v : State) : Prop where
  run : BusyRun n s v
  block : blockOf v = absorbBytes (blockOf s) bs
  ustate : v.ustate = u
  context : SameContext s v

theorem blockOf_compressedTo (q : Quad) (s : State) : blockOf (compressedTo q s) = ⟨q, s.buf, 0⟩ := rfl

theorem sameContext_compressedTo (q : Quad) (s : State) : SameContext s (compressedTo q s) := rfl

section
variable {n m : Nat} {bs cs : List Byte} {u u' : BitVec 4} {s t v w : State}

theorem AbsorbRun.trans (h : AbsorbRun n bs u s v) (h' : AbsorbRun m cs u' v w) :
    AbsorbRun (n + m) (bs ++ cs) u' s w where
  run := h.run.trans h'.run
  block := by rw [absorbBytes_append, ← h.block, h'.block]
  ustate := h'.ustate
  context := h'.context.trans h.context

theorem AbsorbRun.fill_toNat (h : AbsorbRun n bs u s v) (hfill : s.fill.toNat ≤ 63) :
    v.fill.toNat = (s.fill.toNat + bs.length) % 64 := by
  have hlt : (blockOf s).fill < 64 := Nat.lt_succ_of_le hfill
  exact (congrArg BlockState.fill h.block).trans (absorbBytes_fill hlt)

/-! ### One byte (R151, R155, R157) -/

/-- The turns of one byte: its own, and a compression where it fills the block. -/
def byteTurns (s : State) : Nat := if s.fill.toNat = 63 then 67 else 1

/-- A turn that leaves room in the block. -/
theorem absorbRun_of_room {b : Byte} (hbusy : s.busy = true) (hmicro : runMicro s = .next t)
    (hroom : s.fill.toNat < 63) (hblock : (t.reg, t.buf, t.fill) = (s.reg, s.buf.write s.fill.toNat b, s.fill + 1#7))
    (hcontext : SameContext s t) : AbsorbRun (byteTurns s) [b] t.ustate s t where
  run := by
    rw [byteTurns, if_neg (by omega)]
    exact .single hbusy hmicro
  block := by
    obtain ⟨hreg, hbuf, hfill⟩ := by simpa only [Prod.mk.injEq] using hblock
    have hne : (blockOf s).fill ≠ 63 := Nat.ne_of_lt hroom
    rw [absorbBytes_cons, absorbByte_of_room b hne, blockOf, hreg, hbuf, hfill, fill_succ_toNat (by omega)]
    rfl
  ustate := rfl
  context := hcontext

/-- A turn that fills the block, and the compression that it starts. -/
theorem exists_absorbRun_of_full {b : Byte} (hbusy : s.busy = true) (hmicro : runMicro s = .next t)
    (hfull : s.fill.toNat = 63) (hblock : (t.reg, t.buf) = (s.reg, s.buf.write s.fill.toNat b))
    (hcontext : SameContext s t) (hu : t.ustate = UState.cmpLoad) (hret : ReturnLegal t) :
    ∃ v, AbsorbRun (byteTurns s) [b] (afterCompression t) s v ∧ v.pend = t.pend ∧ v.pcnt = t.pcnt := by
  obtain ⟨hreg, hbuf⟩ := by simpa only [Prod.mk.injEq] using hblock
  have hrun := (BusyRun.single hbusy hmicro).trans (busyRun_of_cmpLoad hu hret)
  have hturns : byteTurns s = 1 + 66 := if_pos hfull
  rw [← hturns] at hrun
  refine ⟨_, ⟨hrun, ?_, compressedTo_ustate _ t, (sameContext_compressedTo _ t).trans hcontext⟩,
    compressedTo_pend _ t, compressedTo_pcnt _ t⟩
  rw [absorbBytes_cons, absorbByte_of_full b hfull, blockOf_compressedTo, hreg, hbuf]
  rfl

theorem exists_absorbRun_of_absByte (hu : s.ustate = UState.absByte) (hpos : 1 ≤ s.pcnt.toNat)
    (hle : s.pcnt.toNat ≤ 4) (hfill : s.fill.toNat ≤ 63) :
    ∃ v, AbsorbRun (byteTurns s) [byteOf 0 s.pend] (if s.pcnt = 1#3 then UState.ready else UState.absByte) s v ∧
      v.pend = s.pend >>> 8 ∧ v.pcnt = s.pcnt - 1#3 := by
  have hbusy : s.busy = true := by rw [State.busy, hu]; rfl
  obtain ⟨t, ht⟩ := exists_execAbsByte_eq_next hpos hle hfill
  have hmicro := (runMicro_absByte hu).trans ht
  obtain ⟨-, -, -, u, r, rfl, hcase⟩ := execAbsByte_next ht
  obtain ⟨hfull, rfl, rfl⟩ | ⟨hroom, hlast, rfl, rfl⟩ | ⟨hroom, hmore, rfl, rfl⟩ := hcase
  · have hpcnt := pcnt_pred_toNat hpos
    obtain ⟨v, hrun, hpend, hcount⟩ := exists_absorbRun_of_full (b := byteOf 0 s.pend) hbusy hmicro hfull rfl rfl rfl
      (.inr (.inr ⟨rfl, by simp only [hpcnt]; omega⟩))
    have hzero : s.pcnt - 1#3 = 0#3 ↔ s.pcnt = 1#3 := by generalize s.pcnt = c; revert c; decide
    simp only [afterCompression, hzero] at hrun
    exact ⟨v, hrun, hpend, hcount⟩
  · rw [if_pos hlast]
    exact ⟨_, absorbRun_of_room hbusy hmicro hroom rfl rfl, rfl, rfl⟩
  · rw [if_neg hmore]
    exact ⟨_, absorbRun_of_room hbusy hmicro hroom rfl rfl, rfl, rfl⟩

theorem exists_absorbRun_of_padByte {b : Byte} (hbusy : s.busy = true) (hmicro : runMicro s = padByte b s)
    (hfill : s.fill.toNat ≤ 63) :
    ∃ v, AbsorbRun (byteTurns s) [b] (if s.fill.toNat = 55 then UState.padLen else UState.padZero) s v := by
  obtain ⟨t, ht⟩ := exists_padByte_eq_next b hfill
  rw [ht] at hmicro
  obtain ⟨-, u, r, rfl, hcase⟩ := padByte_next ht
  obtain ⟨hfull, rfl, rfl⟩ | ⟨hfield, rfl, rfl⟩ | ⟨hroom, hne, rfl, rfl⟩ := hcase
  · obtain ⟨v, hrun, -, -⟩ := exists_absorbRun_of_full (b := b) hbusy hmicro hfull rfl rfl rfl (.inr (.inl rfl))
    rw [if_neg (by omega)]
    exact ⟨v, hrun⟩
  · rw [if_pos hfield]
    exact ⟨_, absorbRun_of_room hbusy hmicro (by omega) rfl rfl⟩
  · rw [if_neg hne]
    exact ⟨_, absorbRun_of_room hbusy hmicro hroom rfl rfl⟩

/-! ### A beat (R134) -/

/-- The turns of a beat of `n` bytes from FILL = `f`: one each, and a compression if it reaches the block's end. -/
def beatTurns (f n : Nat) : Nat := if f + n < 64 then n else n + 66

theorem exists_absorbRun_of_beat (hu : s.ustate = UState.absByte) (hn : s.pcnt.toNat = n) (hpos : 1 ≤ n) (hle : n ≤ 4)
    (hfill : s.fill.toNat ≤ 63) :
    ∃ v, AbsorbRun (beatTurns s.fill.toNat n) ((List.range n).map fun i => byteOf i s.pend) UState.ready s v := by
  induction n generalizing s with
  | zero => omega
  | succ n ih =>
    obtain ⟨v, hbyte, hpend, hpcnt⟩ := exists_absorbRun_of_absByte hu (by omega) (by omega) hfill
    have hbytes : (List.range (n + 1)).map (fun i => byteOf i s.pend) =
        [byteOf 0 s.pend] ++ (List.range n).map fun i => byteOf i v.pend := by
      simp [List.range_succ_eq_map, hpend, byteOf_shiftRight]
    have hfill' := hbyte.fill_toNat hfill
    have hcount : v.pcnt.toNat = n := by rw [hpcnt, pcnt_pred_toNat (by omega)]; omega
    rw [List.length_singleton] at hfill'
    rw [hbytes]
    by_cases hlast : s.pcnt = 1#3
    · obtain rfl : n = 0 := by simpa [hlast] using hn.symm
      have hturns : beatTurns s.fill.toNat 1 = byteTurns s := by simp only [beatTurns, byteTurns]; split_ifs <;> omega
      rw [if_pos hlast] at hbyte
      exact ⟨v, hturns ▸ hbyte⟩
    · have hne : s.pcnt.toNat ≠ 1 := fun h => hlast (BitVec.eq_of_toNat_eq h)
      rw [if_neg hlast] at hbyte
      obtain ⟨w, hrest⟩ := ih hbyte.ustate hcount (by omega) (by omega) (by omega)
      have hturns : beatTurns s.fill.toNat (n + 1) = byteTurns s + beatTurns v.fill.toNat n := by
        simp only [beatTurns, byteTurns, hfill']
        split_ifs <;> omega
      exact ⟨w, hturns ▸ hbyte.trans hrest⟩

/-- An accepted ABSORB has the beat pending. -/
theorem exists_absorbRun_of_absorb {nb : Nat} (hready : s.ustate = UState.ready) (hfill : s.fill.toNat ≤ 63)
    (hpos : 1 ≤ nb) (hle : nb ≤ 4) (hfits : s.mcnt.toNat + nb ≤ 2 ^ 61 - 1) :
    ∃ t v, exec (.absorb nb) s = .next t ∧ t.mcnt.toNat = s.mcnt.toNat + nb ∧
      SameContext { s with mcnt := t.mcnt } t ∧ blockOf t = blockOf s ∧
      AbsorbRun (beatTurns s.fill.toNat nb) ((List.range nb).map fun i => byteOf i s.din) UState.ready t v := by
  obtain ⟨haccepted, -⟩ := absorbTakesABeat s nb hpos hle
  obtain ⟨t, hexec, ht, hmcnt, hpcnt, -⟩ := haccepted hready hfits
  obtain ⟨v, hrun⟩ := exists_absorbRun_of_beat (s := t) (by rw [ht]) hpcnt hpos hle (by rw [ht]; exact hfill)
  refine ⟨t, v, hexec, hmcnt, by rw [ht]; rfl, by rw [ht]; rfl, ?_⟩
  rw [ht] at hrun ⊢
  exact hrun

/-! ### The padding (R135) -/

/-- The zero bytes from FILL = `f` to the length field, in this block or the next. -/
def zerosToLength (f : Nat) : Nat := if f ≤ 56 then 56 - f else 120 - f

/-- The turns of those bytes: one each, and a compression where they reach into the next block. -/
def zeroTurns (f : Nat) : Nat := if f ≤ 56 then 56 - f else 186 - f

/-- Zero bytes up to the length field; U_PAD_ZERO is never entered with FILL = 56. -/
theorem exists_absorbRun_of_padZero (hu : s.ustate = UState.padZero) (hfill : s.fill.toNat ≤ 63)
    (hne : s.fill.toNat ≠ 56) :
    ∃ v, AbsorbRun (zeroTurns s.fill.toNat) (List.replicate (zerosToLength s.fill.toNat) 0x00#8) UState.padLen s v := by
  generalize hn : zerosToLength s.fill.toNat = n
  induction n generalizing s with
  | zero => rw [zerosToLength] at hn; split_ifs at hn <;> omega
  | succ n ih =>
    obtain ⟨v, hbyte⟩ := exists_absorbRun_of_padByte (by rw [State.busy, hu]; rfl) (runMicro_padZero hu) hfill
    have hfill' := hbyte.fill_toNat hfill
    rw [List.length_singleton] at hfill'
    by_cases hfield : s.fill.toNat = 55
    · obtain rfl : n = 0 := by simpa [zerosToLength, hfield] using hn.symm
      have hturns : zeroTurns s.fill.toNat = byteTurns s := by simp [zeroTurns, byteTurns, hfield]
      rw [if_pos hfield] at hbyte
      exact ⟨v, hturns ▸ hbyte⟩
    · rw [if_neg hfield] at hbyte
      have hn' : zerosToLength v.fill.toNat = n := by
        simp only [zerosToLength, hfill'] at hn ⊢
        split_ifs at hn ⊢ <;> omega
      obtain ⟨w, hrest⟩ := ih hbyte.ustate (by omega) (by omega) hn'
      have hturns : zeroTurns s.fill.toNat = byteTurns s + zeroTurns v.fill.toNat := by
        simp only [zeroTurns, byteTurns, hfill']
        split_ifs <;> omega
      exact ⟨w, hturns ▸ hbyte.trans hrest⟩

/-- The turns from U_PAD_80 to U_PAD_LEN. -/
def paddingTurns (f : Nat) : Nat := if f ≤ 55 then 56 - f else 186 - f

/-- 0x80 and R150's K zero bytes. -/
theorem exists_absorbRun_of_pad80 (hu : s.ustate = UState.pad80) (hfill : s.fill.toNat ≤ 63) :
    ∃ v, AbsorbRun (paddingTurns s.fill.toNat) (0x80#8 :: List.replicate (padZeros s.fill.toNat) 0x00#8)
      UState.padLen s v := by
  obtain ⟨v, hbyte⟩ := exists_absorbRun_of_padByte (by rw [State.busy, hu]; rfl) (runMicro_pad80 hu) hfill
  have hfill' := hbyte.fill_toNat hfill
  rw [List.length_singleton] at hfill'
  by_cases hfield : s.fill.toNat = 55
  · have hturns : paddingTurns s.fill.toNat = byteTurns s := by simp [paddingTurns, byteTurns, hfield]
    rw [if_pos hfield] at hbyte
    rw [hturns, hfield]
    exact ⟨v, hbyte⟩
  · rw [if_neg hfield] at hbyte
    obtain ⟨w, hzeros⟩ := exists_absorbRun_of_padZero hbyte.ustate (by omega) (by omega)
    have hcount : padZeros s.fill.toNat = zerosToLength v.fill.toNat := by
      simp only [padZeros, zerosToLength, hfill']
      split_ifs <;> omega
    have hturns : paddingTurns s.fill.toNat = byteTurns s + zeroTurns v.fill.toNat := by
      simp only [paddingTurns, byteTurns, zeroTurns, hfill']
      split_ifs <;> omega
    rw [hturns, hcount]
    exact ⟨w, hbyte.trans hzeros⟩

theorem lengthField_eq_bitLengthBytes (n : BitVec 61) : lengthField n = bitLengthBytes n.toNat := by
  have hbits : n.setWidth 64 <<< 3 = BitVec.ofNat 64 (8 * n.toNat) := by
    have hn : n.toNat < 2 ^ 61 := n.isLt
    apply BitVec.eq_of_toNat_eq
    rw [bitLength_toNat, BitVec.toNat_ofNat]
    omega
  rw [lengthField, bitLengthBytes, hbits]

/-- PAD_LEN and the last compression; BUF keeps the last block. -/
theorem exists_busyRun_of_padLen (hu : s.ustate = UState.padLen) :
    ∃ v, BusyRun 67 s v ∧ v.ustate = UState.done ∧ SameContext s v ∧
      v.buf = s.buf.writeBytes 56 (bitLengthBytes s.mcnt.toNat) ∧ v.reg = compress s.reg (bufWords v.buf) := by
  have hrun := (BusyRun.single (by rw [State.busy, hu]; rfl) ((runMicro_padLen hu).trans (exec_padLen s))).trans
    (busyRun_of_cmpLoad rfl (.inl rfl))
  refine ⟨_, hrun, compressedTo_ustate _ _, sameContext_compressedTo _ _, ?_, ?_⟩
  · rw [compressedTo_buf, lengthField_eq_bitLengthBytes]
  · rw [compressedTo_reg, compressedTo_buf]

/-- R251's count for FINAL at FILL = `f`. -/
def finalTurns (f : Nat) : Nat := if f ≤ 55 then 123 - f else 253 - f

/-- The padding of an accepted FINAL, to U_DONE. -/
theorem exists_finalRun (hu : s.ustate = UState.pad80) (hfill : s.fill.toNat ≤ 63) :
    ∃ p v, blockOf p = absorbBytes (blockOf s) (0x80#8 :: List.replicate (padZeros s.fill.toNat) 0x00#8) ∧
      BusyRun (finalTurns s.fill.toNat) s v ∧ v.ustate = UState.done ∧ SameContext s v ∧
      v.buf = p.buf.writeBytes 56 (bitLengthBytes s.mcnt.toNat) ∧ v.reg = compress p.reg (bufWords v.buf) := by
  obtain ⟨p, hpad⟩ := exists_absorbRun_of_pad80 hu hfill
  obtain ⟨v, hlen, hdone, hcontext, hbuf, hreg⟩ := exists_busyRun_of_padLen hpad.ustate
  have hturns : finalTurns s.fill.toNat = paddingTurns s.fill.toNat + 67 := by
    simp only [finalTurns, paddingTurns]
    split_ifs <;> omega
  have hmcnt : p.mcnt = s.mcnt := congrArg Prod.fst hpad.context
  exact ⟨p, v, hpad.block, hturns ▸ hpad.run.trans hlen, hdone, hcontext.trans hpad.context, hmcnt ▸ hbuf, hreg⟩

/-- The block that FINAL's bytes leave at FILL = 56, by whether they spill into a second one. -/
theorem absorbBytes_padding {t : BlockState} {n : Nat} (hfill : t.fill = n % 64) :
    let p := absorbBytes t (0x80#8 :: List.replicate (padZeros n) 0x00#8)
    p.fill = 56 ∧ (t.fill ≤ 55 → p.reg = t.reg) ∧
    (56 ≤ t.fill → p.reg = compress t.reg
      (bufWords ((t.buf.write t.fill 0x80#8).writeBytes (t.fill + 1) (List.replicate (63 - t.fill) 0x00#8)))) := by
  have hcount : padZeros n = if t.fill ≤ 55 then 55 - t.fill else 63 - t.fill + 56 := by
    rw [padZeros, hfill]
    split_ifs <;> omega
  refine ⟨?_, fun hle => ?_, fun hge => ?_⟩
  · rw [absorbBytes_fill (by omega), List.length_cons, List.length_replicate, hcount]
    split_ifs <;> omega
  · rw [absorbBytes_of_room (by rw [List.length_cons, List.length_replicate, hcount, if_pos hle]; omega)]
  · rw [hcount, if_neg (by omega), List.replicate_add, ← List.cons_append, absorbBytes_append,
      absorbBytes_of_full (List.cons_ne_nil _ _) (by rw [List.length_cons, List.length_replicate]; omega),
      absorbBytes_of_room (by simp)]
    rfl

theorem padZeros_mod (n : Nat) : padZeros (n % 64) = padZeros n := by
  rw [padZeros, padZeros, Nat.mod_mod]

/-- An accepted FINAL, to U_DONE. -/
theorem exists_finalRun_of_final (hready : s.ustate = UState.ready) (hfill : s.fill.toNat = s.mcnt.toNat % 64) :
    ∃ t v, exec .final s = .next t ∧ BusyRun (finalTurns (s.mcnt.toNat % 64)) t v ∧ v.ustate = UState.done ∧
      SameContext s v ∧
      let p := absorbBytes (blockOf s) (0x80#8 :: List.replicate (padZeros s.mcnt.toNat) 0x00#8)
      v.buf = p.buf.writeBytes 56 (bitLengthBytes s.mcnt.toNat) ∧ v.reg = compress p.reg (bufWords v.buf) := by
  obtain ⟨p, v, hblock, hrun, hdone, hcontext, hbuf, hreg⟩ :=
    exists_finalRun (s := { s with ustate := UState.pad80 }) rfl (by simp only; omega)
  have hpadded : blockOf p = absorbBytes (blockOf s) (0x80#8 :: List.replicate (padZeros s.mcnt.toNat) 0x00#8) := by
    rw [← padZeros_mod s.mcnt.toNat, ← hfill]
    exact hblock
  refine ⟨_, v, exec_final_of_ready hready, hfill ▸ hrun, hdone, hcontext, ?_⟩
  rw [← hpadded]
  exact ⟨hbuf, hreg⟩

theorem finalTurns_le (n : Nat) : finalTurns (n % 64) ≤ microStepBound := by
  simp only [finalTurns, microStepBound]
  split_ifs <;> omega

theorem beatTurns_le {nb : Nat} (f : Nat) (hle : nb ≤ 4) : beatTurns f nb ≤ microStepBound := by
  simp only [beatTurns, microStepBound]
  split_ifs <;> omega

end

/-! ### The obligations -/

/-- Settles O52: the accepted beat's run is shorter than the bound. -/
theorem absorbToCompletion : Obligations.AbsorbToCompletion := by
  intro s nb hready hfill hpos hle hfits
  obtain ⟨t, v, hexec, hmcnt, hcontext, hblock, hrun⟩ := exists_absorbRun_of_absorb hready hfill hpos hle hfits
  have hsettle := hrun.run.settle_eq (State.idle_of_ready hrun.ustate) (beatTurns_le _ hle)
  have hframe := hrun.context.trans hcontext
  refine ⟨v, by rw [hexec, andThen_next, hsettle], hrun.ustate, ?_, hrun.block.trans (by rw [hblock]; rfl),
    congrArg Prod.snd hframe⟩
  rw [← hmcnt]
  exact congrArg (fun c => c.1.toNat) hframe

/-- Settles O53: the padding's run is at most 197 turns. -/
theorem finalToCompletion : Obligations.FinalToCompletion := by
  intro s hready hfill
  obtain ⟨t, v, hexec, hrun, hdone, hcontext, hbuf, hreg⟩ := exists_finalRun_of_final hready hfill
  have hsettle := hrun.settle_eq (State.idle_of_done hdone) (finalTurns_le _)
  obtain ⟨hfield, hone, htwo⟩ := absorbBytes_padding (t := blockOf s) hfill
  exact ⟨hfield, hone, htwo, v, by rw [hexec, andThen_next, hsettle], hdone, hbuf, hreg, hcontext⟩

/-- Settles O55: a waiting engine is busy for no turn, and an accepted ABSORB or FINAL for its run's. -/
theorem microStepCounts : Obligations.MicroStepCounts := by
  intro s
  refine ⟨?_, ?_, ?_, ?_, ?_, ?_⟩
  · rintro hidle i t (rfl | rfl | rfl) h
    · rw [exec_nop_of_idle hidle] at h
      cases h
      exact busyExactly_zero hidle
    · rw [exec_init_of_idle hidle] at h
      cases h
      exact busyExactly_zero (State.idle_of_ready rfl)
    · rw [exec_clrerr_of_idle hidle] at h
      cases h
      exact busyExactly_zero hidle
  · intro hidle w t hw h
    rw [exec_wrCmd_of_not_mem hidle hw] at h
    cases h
    exact busyExactly_zero hidle
  · intro hphase nb t h
    have hidle : s.idle = true := hphase.elim State.idle_of_done State.idle_of_error
    obtain ⟨habsorb, hfinal⟩ := wrongPhaseSetsErrCmd s nb hphase
    obtain rfl : { s with errCmd := true } = t := by
      rcases h with h | h
      · exact Host.Outcome.next.inj (habsorb.symm.trans h)
      · exact Host.Outcome.next.inj (hfinal.symm.trans h)
    exact busyExactly_zero hidle
  · intro nb hready hfill hpos hle hfits
    obtain ⟨t, v, hexec, -, -, -, hrun⟩ := exists_absorbRun_of_absorb hready hfill hpos hle hfits
    exact ⟨t, hexec, hrun.run.busyExactly (State.idle_of_ready hrun.ustate)⟩
  · intro nb hready hlt
    exact ⟨_, exec_absorb_of_ready_of_lt hready hlt, busyExactly_zero (State.idle_of_error rfl)⟩
  · intro hready hfill
    obtain ⟨t, v, hexec, hrun, hdone, -⟩ := exists_finalRun_of_final hready hfill
    exact ⟨t, hexec, hrun.busyExactly (State.idle_of_done hdone)⟩

/-! ### From every state of the invariant (R253) -/

section
variable {s : State}

/-- The engine waits for the host after at most `n` turns. -/
def IdleWithin (n : Nat) (s : State) : Prop := ∃ m t, m ≤ n ∧ BusyRun m s t ∧ t.idle = true

theorem IdleWithin.of_run {m n k : Nat} {t : State} (h : BusyRun m s t) (ht : IdleWithin n t) (hle : m + n ≤ k) :
    IdleWithin k s := by
  obtain ⟨m', u, hm', hrun, hidle⟩ := ht
  exact ⟨m + m', u, by omega, h.trans hrun, hidle⟩

theorem idleWithin_of_idle (n : Nat) (hidle : s.idle = true) : IdleWithin n s := ⟨0, s, n.zero_le, .refl s, hidle⟩

theorem idleWithin_of_absByte (hinv : Inv s) (hu : s.ustate = UState.absByte) : IdleWithin 70 s := by
  obtain ⟨hpos, hle, hfill, -⟩ := (countsAgree_of_absByte hu).1 hinv.counts
  obtain ⟨v, hrun⟩ := exists_absorbRun_of_beat hu rfl hpos hle hfill
  refine .of_run hrun.run (idleWithin_of_idle 0 (State.idle_of_ready hrun.ustate)) ?_
  rw [beatTurns]
  split_ifs <;> omega

theorem idleWithin_of_padLen (hu : s.ustate = UState.padLen) : IdleWithin 67 s := by
  obtain ⟨v, hrun, hdone, -⟩ := exists_busyRun_of_padLen hu
  exact .of_run hrun (idleWithin_of_idle 0 (State.idle_of_done hdone)) le_rfl

theorem idleWithin_of_padZero (hinv : Inv s) (hu : s.ustate = UState.padZero) :
    IdleWithin (zeroTurns s.fill.toNat + 67) s := by
  obtain ⟨-, hfill, hne⟩ := (countsAgree_of_padZero hu).1 hinv.counts
  have hne' : s.fill.toNat ≠ 56 := fun h => hne (BitVec.eq_of_toNat_eq h)
  obtain ⟨v, hrun⟩ := exists_absorbRun_of_padZero hu hfill hne'
  exact .of_run hrun.run (idleWithin_of_padLen hrun.ustate) le_rfl

/-- After a compression FILL is 0: the rest of a beat, a whole block of padding, or nothing is left. -/
theorem idleWithin_of_afterCompression {t : State} (hinv : Inv t) (hfill : t.fill = 0#7)
    (hu : t.ustate = afterCompression s) : IdleWithin 123 t := by
  rw [afterCompression] at hu
  split_ifs at hu
  · exact idleWithin_of_idle _ (State.idle_of_done hu)
  · have hturns : zeroTurns t.fill.toNat + 67 = 123 := by rw [hfill]; rfl
    exact hturns ▸ idleWithin_of_padZero hinv hu
  · exact idleWithin_of_idle _ (State.idle_of_ready hu)
  · exact .of_run (.refl t) (idleWithin_of_absByte hinv hu) (by omega)

theorem BusyRun.inv {n : Nat} {t : State} (h : BusyRun n s t) (hinv : Inv s) : Inv t := by
  induction h with
  | refl => exact hinv
  | turn _ hmicro _ ih => exact ih (hinv.runMicro hmicro)

theorem idleWithin_of_compress (hinv : Inv s) (hu : UState.isCompress s.ustate = true) : IdleWithin 189 s := by
  have hret : ReturnLegal s := hinv.ret_of_compress hu
  obtain hu | hu | hu := (isCompress_iff _).1 hu
  · have hrun := busyRun_of_cmpLoad hu hret
    exact .of_run hrun (idleWithin_of_afterCompression (s := s) (hrun.inv hinv) rfl rfl) le_rfl
  · have hrun := busyRun_of_cmpStep hu hret
    exact .of_run hrun (idleWithin_of_afterCompression (s := s) (hrun.inv hinv) rfl rfl) (by omega)
  · have hrun := BusyRun.single (by rw [State.busy, hu]; rfl) ((runMicro_cmpAcc hu).trans (execCmpAcc_eq hret))
    exact .of_run hrun (idleWithin_of_afterCompression (s := s) (hrun.inv hinv) rfl rfl) (by omega)

theorem idleWithin_of_pad80 (hinv : Inv s) (hu : s.ustate = UState.pad80) : IdleWithin 197 s := by
  obtain ⟨p, v, -, hrun, hdone, -⟩ := exists_finalRun hu (hinv.fill_of_pad80 hu)
  refine .of_run hrun (idleWithin_of_idle 0 (State.idle_of_done hdone)) ?_
  rw [finalTurns]
  split_ifs <;> omega

theorem Inv.idleWithin (hinv : Inv s) : IdleWithin 197 s := by
  rcases hinv.ustateLegal with hbusy | hidle
  · have hcompress : UState.isCompress s.ustate = true → IdleWithin 197 s := fun hu =>
      .of_run (.refl s) (idleWithin_of_compress hinv hu) (by omega)
    obtain hu | hu | hu | hu | hu | hu | hu := State.busy_cases hbusy
    · exact .of_run (.refl s) (idleWithin_of_absByte hinv hu) (by omega)
    · exact hcompress (by rw [hu]; rfl)
    · exact hcompress (by rw [hu]; rfl)
    · exact hcompress (by rw [hu]; rfl)
    · exact idleWithin_of_pad80 hinv hu
    · refine .of_run (.refl s) (idleWithin_of_padZero hinv hu) ?_
      obtain ⟨-, hfill, -⟩ := (countsAgree_of_padZero hu).1 hinv.counts
      rw [zeroTurns]
      split_ifs <;> omega
    · exact .of_run (.refl s) (idleWithin_of_padLen hu) (by omega)
  · exact idleWithin_of_idle _ hidle

end

/-- Settles O56: the longest wait is that of a FINAL whose padding spills at once. -/
theorem busyEndsWithinTheBound : Obligations.BusyEndsWithinTheBound := by
  intro s hinv
  obtain ⟨n, t, hle, hrun, hidle⟩ := hinv.idleWithin
  exact ⟨n, hle, hrun.busyExactly hidle⟩

end Sys2Proof.Machine
end

section
/-! Schedules (00_scope.md R9, 43_serializer.md R204, 70_reset_and_hazards.md R244, R247): no turn reads the host's side
of the window, so events that command nothing do not change what the engine settles to. -/

namespace Sys2Proof.Machine

/-! ### The host's side of the window -/

/-- `s` with another DIN, another word returned and another agenda. -/
def withHost (d r : Word) (l : List Event) (s : State) : State := { s with din := d, rdata := r, agenda := l }

/-- An outcome with its next state mapped. -/
def mapNext (f : State → State) (o : Host.Outcome State Fault Refusal) : Host.Outcome State Fault Refusal :=
  match o with
  | .next s => .next (f s)
  | .fault r => .fault r
  | .refused r => .refused r

theorem mapNext_ite (f : State → State) (p : Prop) [Decidable p] (o o' : Host.Outcome State Fault Refusal) :
    mapNext f (if p then o else o') = if p then mapNext f o else mapNext f o' := by
  split_ifs <;> rfl

section
variable {d r : Word} {l : List Event} {s t : State}

theorem engineView_withHost : (withHost d r l s).engineView = s.engineView := rfl

theorem execAbsByte_withHost : execAbsByte (withHost d r l s) = mapNext (withHost d r l) (execAbsByte s) := by
  rw [execAbsByte, execAbsByte]
  simp only [mapNext_ite]
  rfl

theorem padByte_withHost (b : Byte) : padByte b (withHost d r l s) = mapNext (withHost d r l) (padByte b s) := by
  rw [padByte, padByte]
  simp only [mapNext_ite]
  rfl

theorem execCmpAcc_withHost : execCmpAcc (withHost d r l s) = mapNext (withHost d r l) (execCmpAcc s) := by
  rw [execCmpAcc, execCmpAcc]
  simp only [mapNext_ite]
  rfl

/-- A turn does not read the host's side and leaves it as it is (R26, R33). -/
theorem runMicro_withHost : runMicro (withHost d r l s) = mapNext (withHost d r l) (runMicro s) := by
  rcases Nat.lt_or_ge 9 s.ustate.toNat with hillegal | hlegal
  · rw [runMicro_unreachable hillegal, runMicro_unreachable (s := withHost d r l s) hillegal]
    rfl
  obtain hbusy | hidle := (UState.legal_iff s.ustate).2 hlegal
  · obtain hu | hu | hu | hu | hu | hu | hu := State.busy_cases hbusy
    · rw [runMicro_absByte hu, runMicro_absByte (s := withHost d r l s) hu, execAbsByte_withHost]
    · rw [runMicro_cmpLoad hu, runMicro_cmpLoad (s := withHost d r l s) hu]
      rfl
    · rw [runMicro_cmpStep hu, runMicro_cmpStep (s := withHost d r l s) hu, roundOp_eq, roundOp_eq]
      rfl
    · rw [runMicro_cmpAcc hu, runMicro_cmpAcc (s := withHost d r l s) hu, execCmpAcc_withHost]
    · rw [runMicro_pad80 hu, runMicro_pad80 (s := withHost d r l s) hu, padByte_withHost]
    · rw [runMicro_padZero hu, runMicro_padZero (s := withHost d r l s) hu, padByte_withHost]
    · rw [runMicro_padLen hu, runMicro_padLen (s := withHost d r l s) hu]
      rfl
  · rw [runMicro_idle hidle, runMicro_idle (s := withHost d r l s) hidle]
    rfl

theorem BusyRun.withHost {n : Nat} (h : BusyRun n s t) (d r : Word) (l : List Event) :
    BusyRun n (withHost d r l s) (Machine.withHost d r l t) := by
  induction h with
  | refl => exact .refl _
  | turn hbusy hmicro _ ih => exact .turn hbusy (by rw [runMicro_withHost, hmicro]; rfl) ih

end

/-! ### Quiet events -/

section
variable {a : Access} {s : State}

/-- The quiet accesses are the legal ones but a write of CMD. -/
theorem isLegal_of_isQuiet (h : (Event.access a).isQuiet = true) : a.isLegal = true := by
  obtain ⟨write, off, size, data⟩ := a
  have hpairs : ∀ (w : Bool) (off : BitVec 6), (if w then decide (off = 0x08#6)
      else [0x04#6, 0x08#6, 0x10#6, 0x14#6, 0x20#6, 0x24#6, 0x28#6, 0x2C#6].elem off) = true →
      legalPairs.elem (w, off) = true := by decide
  simp only [Event.isQuiet, Bool.and_eq_true] at h
  simp only [Access.isLegal, Bool.and_eq_true]
  exact ⟨h.1, hpairs write off h.2⟩

theorem not_cmdWrite_of_isQuiet (h : (Event.access a).isQuiet = true) (hwrite : a.write = true) : a.off ≠ 0x00#6 := by
  intro hoff
  simp [Event.isQuiet, hwrite, hoff] at h

/-- A quiet access answers, and touches the host's side alone. -/
theorem Inv.runAccess_of_isQuiet (hinv : Inv s) (h : (Event.access a).isQuiet = true) :
    ∃ d r, Machine.runAccess a s = .next (withHost d r s.agenda s) := by
  obtain ⟨t, ht⟩ := hinv.exists_runAccess_eq_next (isLegal_of_isQuiet h)
  obtain ⟨-, i, hi, hexec⟩ := runAccess_next ht
  obtain rfl | rfl | ⟨v, rfl⟩ := exec_of_decodeBus_cases hi hexec
  · obtain ⟨hwrite, hoff, -⟩ := cmdWrite_of_decodeBus hi
    exact absurd hoff (not_cmdWrite_of_isQuiet h hwrite)
  · exact ⟨a.data, s.rdata, ht⟩
  · exact ⟨s.din, v, ht⟩

/-! ### What the engine settles to -/

/-- Within the bound the engine waits, and its own state is then `w`. -/
def SettlesTo (w : State) (s : State) : Prop :=
  ∃ n t, n ≤ microStepBound ∧ BusyRun n s t ∧ t.idle = true ∧ t.engineView = w

theorem Inv.exists_settlesTo (hinv : Inv s) : ∃ w, SettlesTo w s := by
  obtain ⟨n, t, hle, hrun, hidle⟩ := hinv.idleWithin
  exact ⟨_, n, t, hle, hrun, hidle, rfl⟩

variable {w : State}

theorem SettlesTo.exists_settle_eq (h : SettlesTo w s) :
    ∃ t, settle microStepBound s = .next t ∧ t.idle = true ∧ t.engineView = w := by
  obtain ⟨n, t, hle, hrun, hidle, hview⟩ := h
  exact ⟨t, hrun.settle_eq hidle hle, hidle, hview⟩

theorem SettlesTo.withHost (h : SettlesTo w s) (d r : Word) (l : List Event) : SettlesTo w (withHost d r l s) := by
  obtain ⟨n, t, hle, hrun, hidle, hview⟩ := h
  exact ⟨n, _, hle, hrun.withHost d r l, hidle, engineView_withHost.trans hview⟩

/-- A turn is the first of those still to come, or changes nothing. -/
theorem SettlesTo.exists_runMicro_eq_next (h : SettlesTo w s) : ∃ u, runMicro s = .next u ∧ SettlesTo w u := by
  obtain ⟨n, t, hle, hrun, hidle, hview⟩ := h
  cases hrun with
  | refl => exact ⟨s, runMicro_idle hidle, 0, s, hle, .refl s, hidle, hview⟩
  | turn _ hmicro hrest => exact ⟨_, hmicro, _, t, by omega, hrest, hidle, hview⟩

theorem SettlesTo.exists_runEvent_eq_next {e : Event} (hinv : Inv s) (h : SettlesTo w s) (he : e.isQuiet = true) :
    ∃ u, runEvent e s = .next u ∧ SettlesTo w u := by
  cases e with
  | micro => exact h.exists_runMicro_eq_next
  | reset => cases he
  | access a =>
    obtain ⟨d, r, hnext⟩ := hinv.runAccess_of_isQuiet he
    exact ⟨_, hnext, h.withHost d r s.agenda⟩

theorem SettlesTo.exists_runEvents_eq_next {evs : List Event} (hinv : Inv s) (h : SettlesTo w s)
    (hevs : ∀ e ∈ evs, e.isQuiet = true) : ∃ u, runEvents evs s = .next u ∧ SettlesTo w u := by
  induction evs generalizing s with
  | nil => exact ⟨s, rfl, h⟩
  | cons e es ih =>
    obtain ⟨u, hu, hsettles⟩ := h.exists_runEvent_eq_next hinv (hevs e (by simp))
    obtain ⟨v, hv, hsettles'⟩ := ih (hinv.runEvent hu) hsettles fun e' he' => hevs e' (by simp [he'])
    exact ⟨v, by rw [runEvents, hu, andThen_next, hv], hsettles'⟩

end

/-- Settles O57: what the engine settles to is kept event by event. -/
theorem scheduleDoesNotChangeTheResult : Obligations.ScheduleDoesNotChangeTheResult := by
  intro s evs hinv hevs
  obtain ⟨w, hsettles⟩ := hinv.exists_settlesTo
  obtain ⟨u, hu, hsettles'⟩ := hsettles.exists_runEvents_eq_next hinv hevs
  obtain ⟨t, ht, hidle, hview⟩ := hsettles.exists_settle_eq
  obtain ⟨t', ht', -, hview'⟩ := hsettles'.exists_settle_eq
  exact ⟨u, t, t', hu, ht, ht', hidle, hview'.trans hview.symm⟩

end Sys2Proof.Machine
end

section
/-! What reset leaves unspecified (10_state.md R41, 70_reset_and_hazards.md R241): two engines that differ in AA..DD,
BUF, PEND, STEP and RET alone, where no rule will read them before writing them, answer every event alike. -/

namespace Sys2Proof.Machine

/-! ### The padder's bytes as equations -/

section
variable {s : State}

theorem execAbsByte_eq (hpos : 1 ≤ s.pcnt.toNat) (hle : s.pcnt.toNat ≤ 4) (hfill : s.fill.toNat ≤ 63) :
    execAbsByte s = .next { s with
      buf := s.buf.write s.fill.toNat (byteOf 0 s.pend), fill := s.fill + 1#7
      pend := s.pend >>> 8, pcnt := s.pcnt - 1#3
      ret := if s.fill.toNat = 63 then Ret.abs else s.ret
      ustate := if s.fill.toNat = 63 then UState.cmpLoad
        else if s.pcnt = 1#3 then UState.ready else UState.absByte } := by
  obtain ⟨t, ht⟩ := exists_execAbsByte_eq_next hpos hle hfill
  obtain ⟨-, -, -, u, r, rfl, hcase⟩ := execAbsByte_next ht
  rw [ht]
  obtain ⟨hfull, rfl, rfl⟩ | ⟨hroom, hlast, rfl, rfl⟩ | ⟨hroom, hmore, rfl, rfl⟩ := hcase
  · simp [hfull]
  · simp [hlast, Nat.ne_of_lt hroom]
  · simp [hmore, Nat.ne_of_lt hroom]

theorem padByte_eq (b : Byte) (hfill : s.fill.toNat ≤ 63) :
    padByte b s = .next { s with
      buf := s.buf.write s.fill.toNat b, fill := s.fill + 1#7
      ret := if s.fill.toNat = 63 then Ret.pad else s.ret
      ustate := if s.fill.toNat = 63 then UState.cmpLoad
        else if s.fill.toNat = 55 then UState.padLen else UState.padZero } := by
  obtain ⟨t, ht⟩ := exists_padByte_eq_next b hfill
  obtain ⟨-, u, r, rfl, hcase⟩ := padByte_next ht
  rw [ht]
  obtain ⟨hfull, rfl, rfl⟩ | ⟨hfield, rfl, rfl⟩ | ⟨hroom, hne, rfl, rfl⟩ := hcase
  · simp [hfull]
  · simp [hfield]
  · simp [hne, Nat.ne_of_lt hroom]

end

/-! ### Engines that answer alike -/

/-- The block's bytes so far: both buffers canonical, and alike below FILL. -/
structure SameWritten (s t : State) : Prop where
  left : s.buf.wf
  right : t.buf.wf
  read : ∀ i, i < s.fill.toNat → s.buf.read i = t.buf.read i

/-- What the micro-state is still to read of what reset leaves unspecified: PEND of a beat, RET and the block of a
compression, AA..DD and STEP of its operations, and FILL = 56 where the length field completes the block. -/
structure SamePending (s t : State) : Prop where
  beat : s.ustate = UState.absByte → s.pend = t.pend
  compress : UState.isCompress s.ustate = true → s.fill = 64#7 ∧ s.ret = t.ret ∧ (s.ret = Ret.abs → s.pend = t.pend)
  saved : s.ustate = UState.cmpStep ∨ s.ustate = UState.cmpAcc → s.saved = t.saved
  stepCtr : s.ustate = UState.cmpStep → s.stepCtr = t.stepCtr
  length : s.ustate = UState.padLen → s.fill = 56#7

/-- No event tells `s` and `t` apart. -/
structure Alike (s t : State) : Prop where
  specified : SameSpecified s t
  written : SameWritten s t
  pending : SamePending s t

/-- Both answer a next state, and the two are alike; or both stop with the same fault. -/
inductive AlikeOutcome : Host.Outcome State Fault Refusal → Host.Outcome State Fault Refusal → Prop
  | next {s t : State} (h : Alike s t) : AlikeOutcome (.next s) (.next t)
  | fault (r : Fault) : AlikeOutcome (.fault r) (.fault r)

/-- `s` with other values for what reset leaves unspecified, and another agenda. -/
def withUnspecified (q : Quad) (m : Memory) (p : Word) (k : BitVec 6) (r : BitVec 2) (l : List Event) (s : State) :
    State :=
  { s with saved := q, buf := m, pend := p, stepCtr := k, ret := r, agenda := l }

theorem exists_eq_withUnspecified {s t : State} (h : SameSpecified s t) :
    ∃ q m p k r l, t = withUnspecified q m p k r l s := by
  refine ⟨t.saved, t.buf, t.pend, t.stepCtr, t.ret, t.agenda, ?_⟩
  obtain ⟨hreg, hfill, hmcnt, hpcnt, hustate, hovf, hcmd, hbusy, hdin, hrdata⟩ := h
  simp only [withUnspecified, hreg, hfill, hmcnt, hpcnt, hustate, hovf, hcmd, hbusy, hdin, hrdata]

theorem sameSpecified_withUnspecified (q : Quad) (m : Memory) (p : Word) (k : BitVec 6) (r : BitVec 2) (l : List Event)
    (s : State) : SameSpecified s (withUnspecified q m p k r l s) :=
  ⟨rfl, rfl, rfl, rfl, rfl, rfl, rfl, rfl, rfl, rfl⟩

/-- Micro-states that read nothing of what reset leaves unspecified. -/
def readsNothing (u : BitVec 4) : Bool :=
  [UState.ready, UState.done, UState.error, UState.pad80, UState.padZero].elem u

section
variable {s t : State}

theorem SamePending.of_readsNothing (h : readsNothing s.ustate = true) : SamePending s t := by
  have key : ∀ u, readsNothing u = true → u ≠ UState.absByte ∧ UState.isCompress u = false ∧ u ≠ UState.cmpStep ∧
      u ≠ UState.cmpAcc ∧ u ≠ UState.padLen := by decide
  obtain ⟨habs, hcompress, hstep, hacc, hlen⟩ := key _ h
  exact ⟨fun hu => absurd hu habs, fun hu => by simp [hcompress] at hu, fun hu => absurd hu (by simp [hstep, hacc]),
    fun hu => absurd hu hstep, fun hu => absurd hu hlen⟩

theorem SamePending.of_absByte (hu : s.ustate = UState.absByte) (hpend : s.pend = t.pend) : SamePending s t := by
  refine ⟨fun _ => hpend, ?_, ?_, ?_, ?_⟩ <;> simp [hu, UState.isCompress]

theorem SamePending.of_padLen (hu : s.ustate = UState.padLen) (hfill : s.fill = 56#7) : SamePending s t := by
  refine ⟨?_, ?_, ?_, ?_, fun _ => hfill⟩ <;> simp [hu, UState.isCompress]

theorem SamePending.of_compress (hu : UState.isCompress s.ustate = true) (hfill : s.fill = 64#7) (hret : s.ret = t.ret)
    (hpend : s.ret = Ret.abs → s.pend = t.pend) (hsaved : s.ustate ≠ UState.cmpLoad → s.saved = t.saved)
    (hstep : s.ustate = UState.cmpStep → s.stepCtr = t.stepCtr) : SamePending s t := by
  have key : ∀ u, UState.isCompress u = true → u ≠ UState.absByte ∧ u ≠ UState.padLen := by decide
  obtain ⟨habs, hlen⟩ := key _ hu
  refine ⟨fun h => absurd h habs, fun _ => ⟨hfill, hret, hpend⟩, fun h => hsaved ?_, hstep, fun h => absurd h hlen⟩
  rcases h with h | h <;> simp [h]

theorem SameWritten.of_fill_zero (hs : s.buf.wf) (ht : t.buf.wf) (h : s.fill = 0#7) : SameWritten s t :=
  ⟨hs, ht, fun i hi => by simp [h] at hi⟩

/-- Canonical buffers that are alike in the whole block are equal. -/
theorem SameWritten.buf_eq (h : SameWritten s t) (hfill : s.fill = 64#7) : s.buf = t.buf :=
  equalReadsAreEqualBuffers _ _ h.left h.right fun i hi => h.read i (by rw [hfill]; exact hi)

/-- The same byte at FILL keeps the buffers alike, one index further. -/
theorem read_write_alike {m m' : Memory} {f : BitVec 7} (hm : m.wf) (hm' : m'.wf)
    (hread : ∀ i, i < f.toNat → m.read i = m'.read i) (hf : f.toNat ≤ 63) (b : Byte) :
    ∀ i, i < (f + 1#7).toNat → (m.write f.toNat b).read i = (m'.write f.toNat b).read i := by
  intro i hi
  rw [fill_succ_toNat hf] at hi
  by_cases hat : i = f.toNat
  · rw [hat, Memory.read_write_same hm, Memory.read_write_same hm']
  · rw [Memory.read_write_other m b hat, Memory.read_write_other m' b hat]
    exact hread i (by omega)

/-! ### The engine's turn -/

variable {q : Quad} {m : Memory} {p : Word} {k : BitVec 6} {r : BitVec 2} {l : List Event}

theorem SameWritten.write (h : SameWritten s (withUnspecified q m p k r l s)) (hfill : s.fill.toNat ≤ 63) {t t' : State}
    {b : Byte} (hf : t.fill = s.fill + 1#7) (hbuf : t.buf = s.buf.write s.fill.toNat b)
    (hbuf' : t'.buf = m.write s.fill.toNat b) : SameWritten t t' := by
  refine ⟨?_, ?_, ?_⟩
  · rw [hbuf]
    exact Memory.wf_write h.left (Nat.lt_succ_of_le hfill) b
  · rw [hbuf']
    exact Memory.wf_write h.right (Nat.lt_succ_of_le hfill) b
  · rw [hf, hbuf, hbuf']
    exact read_write_alike h.left h.right h.read hfill b

theorem alikeOutcome_execAbsByte (h : Alike s (withUnspecified q m p k r l s)) (hu : s.ustate = UState.absByte) :
    AlikeOutcome (execAbsByte s) (execAbsByte (withUnspecified q m p k r l s)) := by
  obtain ⟨-, hwritten, hpending⟩ := h
  obtain rfl : s.pend = p := hpending.beat hu
  by_cases hpcnt : s.pcnt = 0#3 ∨ 4 < s.pcnt.toNat
  · rw [execAbsByte_of_pcnt hpcnt, execAbsByte_of_pcnt (s := withUnspecified q m s.pend k r l s) hpcnt]
    exact .fault _
  have hpos : 1 ≤ s.pcnt.toNat := Nat.pos_of_ne_zero fun h0 => hpcnt (.inl (BitVec.eq_of_toNat_eq h0))
  have hle : s.pcnt.toNat ≤ 4 := Nat.le_of_not_lt fun h4 => hpcnt (.inr h4)
  rcases Nat.lt_or_ge 63 s.fill.toNat with hfill | hfill
  · rw [execAbsByte_of_fill hpos hle hfill,
      execAbsByte_of_fill (s := withUnspecified q m s.pend k r l s) hpos hle hfill]
    exact .fault _
  rw [execAbsByte_eq hpos hle hfill, execAbsByte_eq (s := withUnspecified q m s.pend k r l s) hpos hle hfill]
  refine .next ⟨sameSpecified_withUnspecified .., hwritten.write hfill rfl rfl rfl, ?_⟩
  by_cases hfull : s.fill.toNat = 63
  · refine .of_compress ?_ ((fill_succ_eq_iff hfill 64 (by omega)).2 (by omega)) ?_ (fun _ => rfl) ?_ ?_ <;>
      simp [withUnspecified, hfull, UState.isCompress]
  · by_cases hlast : s.pcnt = 1#3
    · exact .of_readsNothing (by simp [hfull, hlast, readsNothing])
    · exact .of_absByte (by simp [hfull, hlast]) rfl

theorem alikeOutcome_padByte (b : Byte) (h : Alike s (withUnspecified q m p k r l s)) :
    AlikeOutcome (padByte b s) (padByte b (withUnspecified q m p k r l s)) := by
  obtain ⟨-, hwritten, -⟩ := h
  rcases Nat.lt_or_ge 63 s.fill.toNat with hfill | hfill
  · rw [padByte_of_fill b hfill, padByte_of_fill (s := withUnspecified q m p k r l s) b hfill]
    exact .fault _
  rw [padByte_eq b hfill, padByte_eq (s := withUnspecified q m p k r l s) b hfill]
  refine .next ⟨sameSpecified_withUnspecified .., hwritten.write hfill rfl rfl rfl, ?_⟩
  by_cases hfull : s.fill.toNat = 63
  · refine .of_compress ?_ ((fill_succ_eq_iff hfill 64 (by omega)).2 (by omega)) ?_ ?_ ?_ ?_ <;>
      simp [withUnspecified, hfull, UState.isCompress]
  · by_cases hfield : s.fill.toNat = 55
    · exact .of_padLen (by simp [hfield]) ((fill_succ_eq_iff hfill 56 (by omega)).2 (by omega))
    · exact .of_readsNothing (by simp [hfull, hfield, readsNothing])

/-- RET 3, or a beat count that CMP_ACC refuses. -/
theorem execCmpAcc_of_not_legal (h : ¬ ReturnLegal s) :
    (s.ret = 3#2 ∧ execCmpAcc s = .fault (.unreachableRet s.ret)) ∨
      (s.ret = Ret.abs ∧ 4 < s.pcnt.toNat ∧ execCmpAcc s = .fault (.unreachablePcnt s.pcnt)) := by
  have hret : ∀ r : BitVec 2, r = Ret.abs ∨ r = Ret.pad ∨ r = Ret.done ∨ r = 3#2 := by decide
  rcases hret s.ret with hret | hret | hret | hret
  · have hlt : 4 < s.pcnt.toNat := Nat.lt_of_not_le fun hle => h (.inr (.inr ⟨hret, hle⟩))
    exact .inr ⟨hret, hlt, execCmpAcc_of_pcnt hret hlt⟩
  · exact absurd (.inr (.inl hret)) h
  · exact absurd (.inl hret) h
  · exact .inl ⟨hret, execCmpAcc_of_ret hret⟩

theorem alikeOutcome_execCmpAcc (h : Alike s (withUnspecified q m p k r l s)) (hu : s.ustate = UState.cmpAcc) :
    AlikeOutcome (execCmpAcc s) (execCmpAcc (withUnspecified q m p k r l s)) := by
  obtain ⟨-, hwritten, hpending⟩ := h
  obtain rfl : s.saved = q := hpending.saved (.inr hu)
  obtain ⟨-, hret, hpend⟩ := hpending.compress (by rw [hu]; rfl)
  obtain rfl : s.ret = r := hret
  by_cases hlegal : ReturnLegal s
  · rw [execCmpAcc_eq hlegal, execCmpAcc_eq (s := withUnspecified s.saved m p k s.ret l s) hlegal]
    refine .next ⟨sameSpecified_withUnspecified .., .of_fill_zero hwritten.left hwritten.right rfl, ?_⟩
    by_cases hbeat : afterCompression s = UState.absByte
    · refine .of_absByte hbeat (hpend ?_)
      rcases hlegal with hdone | hpad | ⟨habs, -⟩
      · simp [afterCompression, hdone] at hbeat
      · simp [afterCompression, hpad] at hbeat
      · exact habs
    · refine .of_readsNothing ?_
      simp only [afterCompression] at hbeat ⊢
      split_ifs at hbeat ⊢
      · rfl
      · rfl
      · rfl
      · exact absurd rfl hbeat
  · rcases execCmpAcc_of_not_legal hlegal with ⟨h3, hfault⟩ | ⟨habs, hlt, hfault⟩
    · rw [hfault, execCmpAcc_of_ret (s := withUnspecified s.saved m p k s.ret l s) h3]
      exact .fault _
    · rw [hfault, execCmpAcc_of_pcnt (s := withUnspecified s.saved m p k s.ret l s) habs hlt]
      exact .fault _

theorem alike_loaded (h : Alike s (withUnspecified q m p k r l s)) (hu : s.ustate = UState.cmpLoad) :
    Alike (loaded s) (loaded (withUnspecified q m p k r l s)) := by
  obtain ⟨hfill, hret, hpend⟩ := h.pending.compress (by rw [hu]; rfl)
  exact ⟨sameSpecified_withUnspecified .., ⟨h.written.left, h.written.right, h.written.read⟩,
    .of_compress rfl hfill hret hpend (fun _ => rfl) fun _ => rfl⟩

/-- The operations read A..D, BUF and STEP. -/
theorem alike_roundOp (f : Word → Word → Word → Word) (h : Alike s (withUnspecified q m p k r l s))
    (hu : s.ustate = UState.cmpStep) :
    Alike (roundOp f s.stepCtr s) (roundOp f s.stepCtr (withUnspecified q m p k r l s)) := by
  obtain ⟨hfill, hret, hpend⟩ := h.pending.compress (by rw [hu]; rfl)
  obtain rfl : s.buf = m := h.written.buf_eq hfill
  rw [roundOp_eq, roundOp_eq]
  refine ⟨sameSpecified_withUnspecified .., ⟨h.written.left, h.written.right, h.written.read⟩,
    .of_compress ?_ hfill hret hpend (fun _ => h.pending.saved (.inl hu)) fun _ => rfl⟩
  simp only [hu]
  split_ifs <;> rfl

theorem alike_padLen (h : Alike s (withUnspecified q m p k r l s)) (hu : s.ustate = UState.padLen) :
    AlikeOutcome (exec .padLen s) (exec .padLen (withUnspecified q m p k r l s)) := by
  rw [exec_padLen, exec_padLen]
  have hbound : 56 + (lengthField s.mcnt).length ≤ bufBytes := by simp [bufBytes]
  refine .next ⟨sameSpecified_withUnspecified .., ⟨Memory.wf_writeBytes h.written.left hbound,
    Memory.wf_writeBytes h.written.right hbound, fun i hi => ?_⟩, .of_compress rfl rfl rfl ?_ ?_ ?_⟩
  · rcases Nat.lt_or_ge i 56 with hlow | hhigh
    · have hread := h.written.read i (by rw [h.pending.length hu]; exact hlow)
      exact (Memory.read_writeBytes_outside _ _ (.inl hlow)).trans
        (hread.trans (Memory.read_writeBytes_outside _ _ (.inl hlow)).symm)
    · obtain ⟨j, rfl⟩ := Nat.exists_eq_add_of_le hhigh
      have hj : j < 8 := by
        simp only [BitVec.toNat_ofNat] at hi
        omega
      exact (read_lengthField h.written.left _ hj).trans (read_lengthField h.written.right _ hj).symm
  · simp
  · simp
  · simp

theorem alikeOutcome_runMicro (h : Alike s t) : AlikeOutcome (runMicro s) (runMicro t) := by
  obtain ⟨q, m, p, k, r, l, rfl⟩ := exists_eq_withUnspecified h.specified
  rcases Nat.lt_or_ge 9 s.ustate.toNat with hillegal | hlegal
  · rw [runMicro_unreachable hillegal, runMicro_unreachable (s := withUnspecified q m p k r l s) hillegal]
    exact .fault _
  obtain hbusy | hidle := (UState.legal_iff s.ustate).2 hlegal
  · obtain hu | hu | hu | hu | hu | hu | hu := State.busy_cases hbusy
    · rw [runMicro_absByte hu, runMicro_absByte (s := withUnspecified q m p k r l s) hu]
      exact alikeOutcome_execAbsByte h hu
    · rw [runMicro_cmpLoad hu, runMicro_cmpLoad (s := withUnspecified q m p k r l s) hu]
      exact .next (alike_loaded h hu)
    · obtain rfl : s.stepCtr = k := h.pending.stepCtr hu
      rw [runMicro_cmpStep hu, runMicro_cmpStep (s := withUnspecified q m p s.stepCtr r l s) hu]
      exact .next (alike_roundOp _ h hu)
    · rw [runMicro_cmpAcc hu, runMicro_cmpAcc (s := withUnspecified q m p k r l s) hu]
      exact alikeOutcome_execCmpAcc h hu
    · rw [runMicro_pad80 hu, runMicro_pad80 (s := withUnspecified q m p k r l s) hu]
      exact alikeOutcome_padByte _ h
    · rw [runMicro_padZero hu, runMicro_padZero (s := withUnspecified q m p k r l s) hu]
      exact alikeOutcome_padByte _ h
    · rw [runMicro_padLen hu, runMicro_padLen (s := withUnspecified q m p k r l s) hu]
      exact alike_padLen h hu
  · rw [runMicro_idle hidle, runMicro_idle (s := withUnspecified q m p k r l s) hidle]
    exact .next h

/-! ### A host access -/

/-- An update of the flags, DIN or the word returned, the same in both. -/
theorem Alike.withRegisters (h : Alike s (withUnspecified q m p k r l s)) (ovf cmd busy : Bool) (din rdata : Word) :
    Alike { s with errOvf := ovf, errCmd := cmd, errBusy := busy, din := din, rdata := rdata }
      { withUnspecified q m p k r l s with
        errOvf := ovf, errCmd := cmd, errBusy := busy, din := din, rdata := rdata } :=
  ⟨sameSpecified_withUnspecified .., ⟨h.written.left, h.written.right, h.written.read⟩,
    ⟨h.pending.beat, h.pending.compress, h.pending.saved, h.pending.stepCtr, h.pending.length⟩⟩

/-- Each command, accepted in a waiting phase. -/
theorem alikeOutcome_exec_of_decodeCmd {w : Word} {i : Instr} (hi : decodeCmd w = .ok i) (hidle : s.idle = true)
    (h : Alike s (withUnspecified q m p k r l s)) :
    AlikeOutcome (exec i s) (exec i (withUnspecified q m p k r l s)) := by
  have hwritten : ∀ {t t' : State}, t.buf = s.buf → t.fill = s.fill → t'.buf = m → SameWritten t t' := by
    intro t t' hbuf hfill hbuf'
    exact ⟨hbuf ▸ h.written.left, hbuf' ▸ h.written.right, by rw [hbuf, hfill, hbuf']; exact h.written.read⟩
  obtain rfl | rfl | ⟨nb, rfl⟩ | rfl | rfl := decodeCmd_ok_cases hi
  · rw [exec_nop_of_idle hidle, exec_nop_of_idle (s := withUnspecified q m p k r l s) hidle]
    exact .next h
  · rw [exec_init_of_idle hidle, exec_init_of_idle (s := withUnspecified q m p k r l s) hidle]
    exact .next ⟨sameSpecified_withUnspecified .., .of_fill_zero h.written.left h.written.right rfl,
      .of_readsNothing rfl⟩
  · by_cases hready : s.ustate = UState.ready
    · rcases Nat.lt_or_ge maxMessageBytes (s.mcnt.toNat + nb) with hlt | hle
      · rw [exec_absorb_of_ready_of_lt hready hlt,
          exec_absorb_of_ready_of_lt (s := withUnspecified q m p k r l s) hready hlt]
        exact .next ⟨sameSpecified_withUnspecified .., hwritten rfl rfl rfl, .of_readsNothing rfl⟩
      · rw [exec_absorb_of_ready_of_le hready hle,
          exec_absorb_of_ready_of_le (s := withUnspecified q m p k r l s) hready hle]
        exact .next ⟨sameSpecified_withUnspecified .., hwritten rfl rfl rfl, .of_absByte rfl rfl⟩
    · rw [exec_absorb_of_not_ready hidle hready,
        exec_absorb_of_not_ready (s := withUnspecified q m p k r l s) hidle hready]
      exact .next (h.withRegisters ..)
  · by_cases hready : s.ustate = UState.ready
    · rw [exec_final_of_ready hready, exec_final_of_ready (s := withUnspecified q m p k r l s) hready]
      exact .next ⟨sameSpecified_withUnspecified .., hwritten rfl rfl rfl, .of_readsNothing rfl⟩
    · rw [exec_final_of_not_ready hidle hready,
        exec_final_of_not_ready (s := withUnspecified q m p k r l s) hidle hready]
      exact .next (h.withRegisters ..)
  · rw [exec_clrerr_of_idle hidle, exec_clrerr_of_idle (s := withUnspecified q m p k r l s) hidle]
    exact .next (h.withRegisters ..)

theorem alikeOutcome_exec_wrCmd (w : Word) (h : Alike s (withUnspecified q m p k r l s)) :
    AlikeOutcome (exec (.wrCmd w) s) (exec (.wrCmd w) (withUnspecified q m p k r l s)) := by
  rcases Nat.lt_or_ge 9 s.ustate.toNat with hillegal | hlegal
  · rw [exec_wrCmd, exec_wrCmd, presentCommand_of_unreachable hillegal,
      presentCommand_of_unreachable (s := withUnspecified q m p k r l s) hillegal]
    exact .fault _
  obtain hbusy | hidle := (UState.legal_iff s.ustate).2 hlegal
  · rw [exec_wrCmd_of_busy hbusy, exec_wrCmd_of_busy (s := withUnspecified q m p k r l s) hbusy]
    exact .next (h.withRegisters ..)
  · by_cases hw : w ∈ legalCommandWords
    · obtain ⟨i, hi⟩ := (exists_decodeCmd_eq_ok_iff w).2 hw
      rw [exec_wrCmd_of_decodeCmd hi, exec_wrCmd_of_decodeCmd hi]
      exact alikeOutcome_exec_of_decodeCmd hi hidle h
    · rw [exec_wrCmd_of_not_mem hidle hw, exec_wrCmd_of_not_mem (s := withUnspecified q m p k r l s) hidle hw]
      exact .next (h.withRegisters ..)

/-- STATUS is made of what reset specifies. -/
theorem alikeOutcome_execRdStatus (h : Alike s (withUnspecified q m p k r l s)) :
    AlikeOutcome (execRdStatus s) (execRdStatus (withUnspecified q m p k r l s)) := by
  rcases Nat.lt_or_ge 9 s.ustate.toNat with hillegal | hlegal
  · rw [execRdStatus_of_unreachable hillegal, execRdStatus_of_unreachable (s := withUnspecified q m p k r l s) hillegal]
    exact .fault _
  rcases Nat.lt_or_ge 64 s.fill.toNat with hfill | hfill
  · rw [execRdStatus_of_fill hlegal hfill, execRdStatus_of_fill (s := withUnspecified q m p k r l s) hlegal hfill]
    exact .fault _
  · obtain ⟨v, hphase, -⟩ := exists_phase_eq_some s.ustate hlegal
    rw [← exec_rdStatus, ← exec_rdStatus, exec_rdStatus_of_phase hphase hfill,
      exec_rdStatus_of_phase (s := withUnspecified q m p k r l s) hphase hfill]
    exact .next (h.withRegisters ..)

theorem alikeOutcome_readDigest (n : RegName) (h : Alike s (withUnspecified q m p k r l s)) :
    AlikeOutcome (readDigest n s) (readDigest n (withUnspecified q m p k r l s)) := by
  rcases Nat.lt_or_ge 9 s.ustate.toNat with hillegal | hlegal
  · rw [readDigest_of_unreachable n hillegal, readDigest_of_unreachable (s := withUnspecified q m p k r l s) n hillegal]
    exact .fault _
  by_cases hdone : s.ustate = UState.done
  · rw [readDigest_of_done n hdone, readDigest_of_done (s := withUnspecified q m p k r l s) n hdone]
    exact .next (h.withRegisters ..)
  · rw [readDigest_of_ne_done n hlegal hdone, readDigest_of_ne_done (s := withUnspecified q m p k r l s) n hlegal hdone]
    exact .next (h.withRegisters ..)

theorem alikeOutcome_runAccess (a : Access) (h : Alike s t) : AlikeOutcome (runAccess a s) (runAccess a t) := by
  obtain ⟨q, m, p, k, r, l, rfl⟩ := exists_eq_withUnspecified h.specified
  by_cases hlegal : a.isLegal = true
  · obtain ⟨i, hi⟩ := exists_decodeBus_eq_ok_of_isLegal hlegal
    have hsize := Access.size_of_isLegal hlegal
    rw [runAccess_of_decodeBus hsize hi, runAccess_of_decodeBus hsize hi]
    obtain rfl | rfl | rfl | rfl | rfl | rfl | rfl | rfl | rfl | rfl := decodeBus_ok_cases hi
    · exact alikeOutcome_exec_wrCmd _ h
    · exact .next (h.withRegisters ..)
    · exact alikeOutcome_execRdStatus h
    · exact .next (h.withRegisters ..)
    · exact .next (h.withRegisters ..)
    · exact .next (h.withRegisters ..)
    · exact alikeOutcome_readDigest .A h
    · exact alikeOutcome_readDigest .B h
    · exact alikeOutcome_readDigest .C h
    · exact alikeOutcome_readDigest .D h
  · rw [runAccess_of_not_legal (Bool.eq_false_iff.2 hlegal), runAccess_of_not_legal (Bool.eq_false_iff.2 hlegal)]
    exact .fault _

/-! ### Sequences of events -/

theorem alikeOutcome_runEvent (e : Event) (h : Alike s t) : AlikeOutcome (runEvent e s) (runEvent e t) := by
  cases e with
  | access a => exact alikeOutcome_runAccess a h
  | micro => exact alikeOutcome_runMicro h
  | reset =>
    obtain ⟨q, m, p, k, r, l, rfl⟩ := exists_eq_withUnspecified h.specified
    exact .next ⟨sameSpecified_withUnspecified .., .of_fill_zero Memory.wf_nil Memory.wf_nil rfl, .of_readsNothing rfl⟩

theorem alikeOutcome_runEvents (evs : List Event) (h : Alike s t) :
    AlikeOutcome (runEvents evs s) (runEvents evs t) := by
  induction evs generalizing s t with
  | nil => exact .next h
  | cons e es ih =>
    have hevent := alikeOutcome_runEvent e h
    rw [runEvents, runEvents]
    generalize runEvent e s = o at *
    generalize runEvent e t = o' at *
    cases hevent with
    | next h' => exact ih h'
    | fault r => exact .fault r

end

/-- Settles O58: at the start of a message nothing unspecified is still to be read. -/
theorem unspecifiedResetValuesAreNeverObservable : Obligations.UnspecifiedResetValuesAreNeverObservable := by
  intro s t evs hspecified hs ht hready hfill _
  have halike : Alike s t := ⟨hspecified, .of_fill_zero hs ht hfill, .of_readsNothing (by rw [hready]; rfl)⟩
  have houtcome := alikeOutcome_runEvents evs halike
  generalize runEvents evs s = o at *
  generalize runEvents evs t = o' at *
  cases houtcome with
  | next h =>
    refine ⟨fun u hu => ?_, fun r hr => ?_⟩
    · cases hu
      exact ⟨_, rfl, h.specified⟩
    · cases hr
  | fault r =>
    refine ⟨fun u hu => ?_, fun r' hr => hr⟩
    cases hu

end Sys2Proof.Machine
end

section
/-! The whole computation (40_host_commands.md R136, 43_serializer.md R200): `absorb_byte` of a padded message is the
digest's fold over its blocks, and the driver's INIT, beats and FINAL are `absorb_byte` of the padded message. -/

namespace Sys2Proof.Machine

/-! ### Blocks (R160 item 3) -/

/-- `compress` reads X[0..15] alone. -/
theorem compress_congr {X Y : Nat → Word} (hXY : ∀ j, j < 16 → X j = Y j) (h : Quad) : compress h X = compress h Y := by
  have hstep : compressStep X = compressStep Y := by
    funext q k
    simp only [compressStep, hXY _ (wordIndex (BitVec.ofNat 6 k)).isLt]
  rw [compress, compress, compressRounds, compressRounds, hstep]

/-- BUF filled with a block has the block's word view. -/
theorem bufWords_writeBytes_block {m : Memory} (hm : m.wf) {block : List Byte} (hlen : block.length = 64) {j : Nat}
    (hj : j < 16) : bufWords (m.writeBytes 0 block) j = blockWords block j := by
  have hindex : (BitVec.ofNat 4 j).toNat = j := by rw [BitVec.toNat_ofNat]; omega
  have hread : ∀ i, i < 64 → Memory.read (m.writeBytes 0 block) i = block.getD i 0#8 := by
    intro i hi
    have hinside := Memory.read_writeBytes_inside hm block (i := 0) (n := i) (by rw [bufBytes]; omega) (by omega)
    rw [Nat.zero_add] at hinside
    rw [hinside, List.getD_eq_getElem _ _ (by omega)]
  rw [bufWords, wordView, hindex, blockWords, hread _ (by omega), hread _ (by omega), hread _ (by omega),
    hread _ (by omega)]

/-- One block of the fold. (`compress` is unfolded on both sides, or the kernel would evaluate one of them.) -/
theorem foldBlocks_succ (n : Nat) (bs : List Byte) (h : Quad) :
    foldBlocks (n + 1) bs h = foldBlocks n (bs.drop 64) (compress h (blockWords (bs.take 64))) := by
  delta foldBlocks compress
  rfl

/-- Whole blocks from an empty buffer are compressed one after the other. -/
theorem absorbBytes_blocks (n : Nat) {m : Memory} (hm : m.wf) (h : Quad) {bs : List Byte} (hlen : bs.length = 64 * n) :
    (absorbBytes ⟨h, m, 0⟩ bs).reg = foldBlocks n bs h := by
  induction n generalizing m h bs with
  | zero =>
    obtain rfl : bs = [] := List.eq_nil_of_length_eq_zero hlen
    rfl
  | succ n ih =>
    have htake : (bs.take 64).length = 64 := by rw [List.length_take]; omega
    have hdrop : (bs.drop 64).length = 64 * n := by rw [List.length_drop]; omega
    have hne : bs.take 64 ≠ [] := List.ne_nil_of_length_pos (by omega)
    have hblock := compress_congr (fun j => bufWords_writeBytes_block hm htake (j := j)) h
    have hfull : absorbBytes ⟨h, m, 0⟩ (bs.take 64) =
        ⟨compress h (blockWords (bs.take 64)), m.writeBytes 0 (bs.take 64), 0⟩ := by
      rw [absorbBytes_of_full hne (by rw [htake]), hblock]
    conv_lhs => rw [← List.take_append_drop 64 bs, absorbBytes_append, hfull]
    rw [foldBlocks_succ, ih (Memory.wf_writeBytes hm (by rw [htake, bufBytes])) _ hdrop]

/-- The padding, the length field and the last compression after the message make the digest's words. -/
theorem compress_padding_eq_digestWords {m : Memory} (hm : m.wf) (msg : List Byte) {p : BlockState}
    (hp : p = absorbBytes (absorbBytes ⟨iv, m, 0⟩ msg) (0x80#8 :: List.replicate (padZeros msg.length) 0x00#8)) :
    compress p.reg (bufWords (p.buf.writeBytes 56 (bitLengthBytes msg.length))) = digestWords msg := by
  have hfill : (absorbBytes ⟨iv, m, 0⟩ msg).fill = msg.length % 64 := by
    rw [absorbBytes_fill (by simp), Nat.zero_add]
  have hfield : p.fill = 56 := by
    rw [hp]
    exact (absorbBytes_padding hfill).1
  have hlast := absorbBytes_of_full (t := p) (bs := bitLengthBytes msg.length)
    (List.ne_nil_of_length_pos (by simp)) (by rw [hfield, bitLengthBytes_length])
  have hpad : absorbBytes p (bitLengthBytes msg.length) = absorbBytes ⟨iv, m, 0⟩ (padMessage msg) := by
    have hparts : padMessage msg =
        msg ++ (0x80#8 :: List.replicate (padZeros msg.length) 0x00#8) ++ bitLengthBytes msg.length := by
      simp [padMessage]
    rw [hparts, absorbBytes_append, absorbBytes_append, hp]
  have hlen : (padMessage msg).length = 64 * ((padMessage msg).length / 64) := by
    have := (padProperties msg).1
    omega
  rw [hpad, hfield] at hlast
  rw [digestWords, ← absorbBytes_blocks _ hm iv hlen, hlast]

/-! ### The driver's accesses (R101, R102) -/

section
variable {s : State} {w : Word} {i : Instr}

theorem hostWrite_din (w : Word) (s : State) : hostWrite 0x08#6 w s = .next { s with din := w } := by
  have hi : decodeBus (Access.mk true 0x08#6 4 w).pattern w = .ok (.wrDin w) :=
    decodeBus_ok_iff.2 (by simp [Access.pattern])
  exact runAccess_of_decodeBus rfl hi s

theorem sendCommand_of_decodeCmd (h : decodeCmd w = .ok i) (s : State) :
    sendCommand w s = andThen (exec i s) (settle microStepBound) := by
  have hwrite : hostWrite 0x00#6 w s = exec i s :=
    (runAccess_of_cmdWrite (a := ⟨true, 0x00#6, 4, w⟩) rfl rfl rfl).trans (exec_wrCmd_of_decodeCmd h s)
  rw [sendCommand, hwrite]

/-- R102's word for a beat. -/
theorem decodeCmd_absorbWord {nb : Nat} (hpos : 1 ≤ nb) (hle : nb ≤ 4) :
    decodeCmd (absorbWord nb) = .ok (.absorb nb) := by
  interval_cases nb <;> rfl

/-- The lanes of a beat's datum are its bytes. -/
theorem beatWord_bytes {bs : List Byte} (hpos : 1 ≤ bs.length) (hle : bs.length ≤ 4) :
    (List.range bs.length).map (fun i => byteOf i (beatWord bs)) = bs := by
  obtain ⟨h0, h1, h2, h3⟩ := byteOf_le32 (bs.getD 0 0#8) (bs.getD 1 0#8) (bs.getD 2 0#8) (bs.getD 3 0#8)
  have hlane : ∀ i, i < 4 → byteOf i (beatWord bs) = bs.getD i 0#8 := by
    intro i hi
    interval_cases i
    · exact h0
    · exact h1
    · exact h2
    · exact h3
  refine List.ext_getElem (by simp) fun i hi hi' => ?_
  rw [List.getElem_map, List.getElem_range, hlane i (by omega), List.getD_eq_getElem _ _ hi']

/-! ### In the middle of a message -/

/-- U_READY after the bytes `msg` of a message that started with the buffer `m`. -/
structure Hashing (m : Memory) (msg : List Byte) (s : State) : Prop where
  ready : s.ustate = UState.ready
  count : s.mcnt.toNat = msg.length
  block : blockOf s = absorbBytes ⟨iv, m, 0⟩ msg
  flags : (s.errOvf, s.errCmd, s.errBusy) = (false, false, false)

variable {m : Memory} {msg bs : List Byte} {beats : List (List Byte)}

theorem Hashing.fill_toNat (h : Hashing m msg s) : s.fill.toNat = msg.length % 64 := by
  have hfill := absorbBytes_fill (t := ⟨iv, m, 0⟩) (bs := msg) (by simp)
  rw [Nat.zero_add, ← h.block] at hfill
  exact hfill

theorem Hashing.sendBeat (h : Hashing m msg s) (hpos : 1 ≤ bs.length) (hle : bs.length ≤ 4)
    (hfits : msg.length + bs.length ≤ 2 ^ 61 - 1) : ∃ t, sendBeat bs s = .next t ∧ Hashing m (msg ++ bs) t := by
  obtain ⟨t, hrun, hready, hcount, hblock, hframe⟩ := absorbToCompletion { s with din := beatWord bs } bs.length h.ready
    (by have := h.fill_toNat; simp only; omega) hpos hle (by rw [h.count]; exact hfits)
  have hsend : Machine.sendBeat bs s = .next t := by
    rw [Machine.sendBeat, hostWrite_din, andThen_next, sendCommand_of_decodeCmd (decodeCmd_absorbWord hpos hle), hrun]
  refine ⟨t, hsend, hready, ?_, ?_, ?_⟩
  · rw [hcount, h.count, List.length_append]
  · rw [absorbBytes_append, ← h.block]
    rw [beatWord_bytes hpos hle] at hblock
    exact hblock
  · simp only [Prod.mk.injEq] at hframe
    obtain ⟨hovf, hcmd, hbusy, -⟩ := hframe
    rw [hovf, hcmd, hbusy]
    exact h.flags

theorem Hashing.sendBeats (h : Hashing m msg s) (hbeats : ∀ b ∈ beats, 1 ≤ b.length ∧ b.length ≤ 4)
    (hfits : (msg ++ beats.flatten).length ≤ 2 ^ 61 - 1) :
    ∃ t, sendBeats beats s = .next t ∧ Hashing m (msg ++ beats.flatten) t := by
  induction beats generalizing msg s with
  | nil => exact ⟨s, rfl, by simpa using h⟩
  | cons b bs ih =>
    obtain ⟨hpos, hle⟩ := hbeats b (by simp)
    rw [List.flatten_cons, ← List.append_assoc] at hfits ⊢
    obtain ⟨u, hu, hhashing⟩ := h.sendBeat hpos hle (by simp only [List.length_append] at hfits; omega)
    obtain ⟨t, ht, hhashing'⟩ := ih hhashing (fun b' hb' => hbeats b' (by simp [hb'])) hfits
    exact ⟨t, by rw [Machine.sendBeats, hu, andThen_next, ht], hhashing'⟩

/-- U_DONE with the digest of `msg` in A..D. -/
structure Hashed (msg : List Byte) (s : State) : Prop where
  done : s.ustate = UState.done
  count : s.mcnt.toNat = msg.length
  digest : s.reg = digestWords msg
  flags : (s.errOvf, s.errCmd, s.errBusy) = (false, false, false)

theorem Hashing.sendFinal (hm : m.wf) (h : Hashing m msg s) :
    ∃ t, sendCommand 0x00000003#32 s = .next t ∧ Hashed msg t := by
  obtain ⟨-, -, -, t, hrun, hdone, hbuf, hreg, hframe⟩ := finalToCompletion s h.ready (by rw [h.fill_toNat, h.count])
  have hblock : BlockState.mk s.reg s.buf s.fill.toNat = absorbBytes ⟨iv, m, 0⟩ msg := h.block
  rw [hblock, h.count] at hbuf hreg
  simp only [Prod.mk.injEq] at hframe
  obtain ⟨hmcnt, hovf, hcmd, hbusy, -⟩ := hframe
  refine ⟨t, by rw [sendCommand_of_decodeCmd decodeCmd_finalWord, hrun], hdone, by rw [hmcnt, h.count], ?_, ?_⟩
  · rw [hreg, hbuf]
    exact compress_padding_eq_digestWords hm msg rfl
  · rw [hovf, hcmd, hbusy]
    exact h.flags

/-- R201, R200: the words the host reads, serialized, are the digest. -/
theorem Hashed.exists_digest_reads (h : Hashed msg s) : ∃ w : Nat → Word,
    hostReadAt 0x20#6 s = .next { s with rdata := w 0 } ∧ hostReadAt 0x24#6 s = .next { s with rdata := w 1 } ∧
    hostReadAt 0x28#6 s = .next { s with rdata := w 2 } ∧ hostReadAt 0x2C#6 s = .next { s with rdata := w 3 } ∧
    wordBytes (w 0) ++ wordBytes (w 1) ++ wordBytes (w 2) ++ wordBytes (w 3) = Machine.digest msg := by
  have hread : ∀ {off : BitVec 6} {i : Instr}, decodeBus (BitVec.ofBool false ++ off) 0#32 = .ok i →
      hostReadAt off s = exec i s := fun {off} {i} hi => runAccess_of_decodeBus (a := ⟨false, off, 4, 0#32⟩) rfl hi s
  have h0 : hostReadAt 0x20#6 s = exec .rdDigest0 s := hread (by rfl)
  have h1 : hostReadAt 0x24#6 s = exec .rdDigest1 s := hread (by rfl)
  have h2 : hostReadAt 0x28#6 s = exec .rdDigest2 s := hread (by rfl)
  have h3 : hostReadAt 0x2C#6 s = exec .rdDigest3 s := hread (by rfl)
  refine ⟨fun k => [s.reg.a, s.reg.b, s.reg.c, s.reg.d].getD k 0#32, h0.trans (readDigest_of_done .A h.done),
    h1.trans (readDigest_of_done .B h.done), h2.trans (readDigest_of_done .C h.done),
    h3.trans (readDigest_of_done .D h.done), ?_⟩
  rw [Machine.digest, ← h.digest]
  rfl

theorem Hashed.successful (h : Hashed msg s) : s.successful := by
  have hflags := h.flags
  simp only [Prod.mk.injEq] at hflags
  exact ⟨decide_eq_true h.done, hflags⟩

/-! ### The start of a message (R124, R240) -/

theorem hashing_resetEngine (s : State) : Hashing [] [] (resetEngine s) := ⟨rfl, rfl, rfl, rfl⟩

theorem hashing_startMessage (s : State) : Hashing s.buf [] (startMessage s) := ⟨rfl, rfl, rfl, rfl⟩

theorem sendCommand_init (hidle : s.idle = true) : sendCommand 0x00000001#32 s = .next (startMessage s) := by
  rw [sendCommand_of_decodeCmd decodeCmd_initWord, exec_init, presentCommand_idle hidle, acceptInit, andThen_next]
  exact (BusyRun.refl _).settle_eq (State.idle_of_ready rfl) (Nat.zero_le _)

/-- The beats and FINAL of a message from its start. -/
theorem exists_hashed (hm : m.wf) (h : Hashing m [] s) (hbeats : ∀ b ∈ beats, 1 ≤ b.length ∧ b.length ≤ 4)
    (hfits : beats.flatten.length ≤ 2 ^ 61 - 1) :
    ∃ t, andThen (Machine.sendBeats beats s) (sendCommand 0x00000003#32) = .next t ∧ Hashed beats.flatten t := by
  obtain ⟨u, hu, hhashing⟩ := h.sendBeats hbeats hfits
  obtain ⟨t, ht, hhashed⟩ := hhashing.sendFinal hm
  exact ⟨t, by rw [hu, andThen_next, ht], hhashed⟩

end

/-- Settles O54: INIT and reset both start a message, whose run ends in U_DONE with the digest. -/
theorem wholeComputationIsTheDigest : Obligations.WholeComputationIsTheDigest := by
  intro beats s hwf hbeats hfits good
  have hgood : ∀ {t : State}, Hashed beats.flatten t → good t := fun h =>
    ⟨h.successful, h.count, h.exists_digest_reads⟩
  refine ⟨fun hidle => ?_, ?_⟩
  · obtain ⟨t, ht, hhashed⟩ := exists_hashed hwf (hashing_startMessage s) hbeats hfits
    exact ⟨t, by rw [hashBeats, sendCommand_init hidle, andThen_next, ht], hgood hhashed⟩
  · obtain ⟨t, ht, hhashed⟩ := exists_hashed Memory.wf_nil (hashing_resetEngine s) hbeats hfits
    exact ⟨t, ht, hgood hhashed⟩

end Sys2Proof.Machine
end
